-- ==== Sys2Proof/Word.lean ====
section
/-! DEFINITION. The word types of the G6 cipher core: the 32-bit bus word, the 8-bit argument field and output byte,
and the alphabet index. A vector `Bits n` of the spec (00_scope.md R8) is `BitVec n`; its elements are numbered from 1
at the most significant end, and `Sys2Proof/Machine/Bits.lean` reads them so. -/

namespace Sys2Proof

/-- A 32-bit register word or command word (00_scope.md R10, 30_encoding.md R90). -/
abbrev Word := BitVec 32

/-- An 8-bit field of a command word (30_encoding.md R91), or the output byte CHAR_OUT (10_state.md R36). -/
abbrev Byte := BitVec 8

/-- An alphabet index, notch or position: an integer in [0,26) with arithmetic modulo 26 (00_scope.md R6, R13). -/
abbrev Letter := Fin 26

/-- A rotor number: 0 is the rightmost rotor, 1 the middle, 2 the leftmost (10_state.md R28). -/
abbrev RotorNo := Fin 3

/-- One round subkey, `Bits 48` (10_state.md R25). -/
abbrev Subkey := BitVec 48

end Sys2Proof
end

