-- ==== Sys2Proof/Syntax.lean ====
section
/-! DEFINITION. The commands of the core: one constructor for each row of spec/opcode_table.json (30_encoding.md R93).
The arguments are the 8-bit fields A, B and C of the command word (R91, R92), in that order, for the fields the row does
not reserve. -/

namespace Sys2Proof

/-- One command of the core (30_encoding.md R93). -/
inductive Instr where
  /-- NOP, OPC 0x00: do nothing (43_control.md R250). -/
  | nop
  /-- KEY_SCHEDULE, OPC 0x01: derive the subkeys of KEY (41_des_engine.md R169). -/
  | keySchedule
  /-- KEY_GENERATE, OPC 0x02: load a drawn key and derive its subkeys (41_des_engine.md R170). -/
  | keyGenerate
  /-- ENCRYPT_BLOCK, OPC 0x03 (41_des_engine.md R171). -/
  | encryptBlock
  /-- DECRYPT_BLOCK, OPC 0x04 (41_des_engine.md R172). -/
  | decryptBlock
  /-- ROTOR_STAGE_WIRING, OPC 0x10: A is the entry index, B the letter byte (42_rotor_engine.md R220). -/
  | rotorStageWiring (index letter : Byte)
  /-- ROTOR_CONFIGURE, OPC 0x11: A is the rotor, B the notch, C the initial position (42_rotor_engine.md R221). -/
  | rotorConfigure (rotor notch init : Byte)
  /-- ROTOR_SET_POSITIONS, OPC 0x12: A, B, C are the new POS[0], POS[1], POS[2] (42_rotor_engine.md R222). -/
  | rotorSetPositions (pos0 pos1 pos2 : Byte)
  /-- ROTOR_RESET, OPC 0x13 (42_rotor_engine.md R223). -/
  | rotorReset
  /-- ROTOR_ENCODE_CHAR, OPC 0x14: A is the input byte (42_rotor_engine.md R224). -/
  | rotorEncodeChar (char : Byte)
  deriving DecidableEq, Repr

end Sys2Proof
end

