-- ==== Sys2Proof/Decode.lean ====
section
/-! DEFINITION. Decoding a command word, total on all 32-bit words (30_encoding.md R96), and the encoder written from the
same format and opcode map (R91, R93). A command word is one 32-bit value on the bus, so it has no byte order. -/

namespace Sys2Proof

/-- What a 32-bit command word is (30_encoding.md R96). -/
inductive Decoded where
  /-- an assigned command whose reserved fields are zero -/
  | command (i : Instr)
  /-- an assigned OPC with a non-zero reserved field (30_encoding.md R94) -/
  | reservedField
  /-- an unassigned OPC (30_encoding.md R95) -/
  | illegalOpcode
  deriving DecidableEq, Repr

/-- OPC, bits 7:0 of a command word (30_encoding.md R91). -/
def fieldOPC (w : Word) : Byte := w.extractLsb' 0 8

/-- A, bits 15:8 (30_encoding.md R91). -/
def fieldA (w : Word) : Byte := w.extractLsb' 8 8

/-- B, bits 23:16 (30_encoding.md R91). -/
def fieldB (w : Word) : Byte := w.extractLsb' 16 8

/-- C, bits 31:24 (30_encoding.md R91). -/
def fieldC (w : Word) : Byte := w.extractLsb' 24 8

/-- A command if the fields its row reserves are zero, else a reserved-field encoding (30_encoding.md R94). -/
def ifReservedZero (fieldsZero : Bool) (i : Instr) : Decoded := if fieldsZero then .command i else .reservedField

/-- The opcode map (30_encoding.md R93). OPC is looked at first (R96). -/
def decodeWord (w : Word) : Decoded :=
  let a := fieldA w
  let b := fieldB w
  let c := fieldC w
  let noArgs := a == 0 && b == 0 && c == 0
  match (fieldOPC w).toNat with
  | 0x00 => ifReservedZero noArgs .nop
  | 0x01 => ifReservedZero noArgs .keySchedule
  | 0x02 => ifReservedZero noArgs .keyGenerate
  | 0x03 => ifReservedZero noArgs .encryptBlock
  | 0x04 => ifReservedZero noArgs .decryptBlock
  | 0x10 => ifReservedZero (c == 0) (.rotorStageWiring a b)
  | 0x11 => .command (.rotorConfigure a b c)
  | 0x12 => .command (.rotorSetPositions a b c)
  | 0x13 => ifReservedZero noArgs .rotorReset
  | 0x14 => ifReservedZero (b == 0 && c == 0) (.rotorEncodeChar a)
  | _ => .illegalOpcode

/-- A command word from its four fields (30_encoding.md R91, R98). -/
def commandWord (opc a b c : Byte) : Word := c ++ b ++ a ++ opc

/-- The word of a command, reserved fields zero (30_encoding.md R93). -/
def encode : Instr → Word
  | .nop => commandWord 0x00 0 0 0
  | .keySchedule => commandWord 0x01 0 0 0
  | .keyGenerate => commandWord 0x02 0 0 0
  | .encryptBlock => commandWord 0x03 0 0 0
  | .decryptBlock => commandWord 0x04 0 0 0
  | .rotorStageWiring index letter => commandWord 0x10 index letter 0
  | .rotorConfigure rotor notch init => commandWord 0x11 rotor notch init
  | .rotorSetPositions pos0 pos1 pos2 => commandWord 0x12 pos0 pos1 pos2
  | .rotorReset => commandWord 0x13 0 0 0
  | .rotorEncodeChar char => commandWord 0x14 char 0 0

/-- One row of the opcode table: the bits a command of this row fixes, and their values. -/
structure OpcodeRow where
  mask : Word
  value : Word
  deriving DecidableEq, Repr

/-- The row of each command in spec/opcode_table.json ("mask" and "match" there). -/
def opcodeRow : Instr → OpcodeRow
  | .nop => ⟨0xFFFFFFFF, 0x00000000⟩
  | .keySchedule => ⟨0xFFFFFFFF, 0x00000001⟩
  | .keyGenerate => ⟨0xFFFFFFFF, 0x00000002⟩
  | .encryptBlock => ⟨0xFFFFFFFF, 0x00000003⟩
  | .decryptBlock => ⟨0xFFFFFFFF, 0x00000004⟩
  | .rotorStageWiring _ _ => ⟨0xFF0000FF, 0x00000010⟩
  | .rotorConfigure _ _ _ => ⟨0x000000FF, 0x00000011⟩
  | .rotorSetPositions _ _ _ => ⟨0x000000FF, 0x00000012⟩
  | .rotorReset => ⟨0xFFFFFFFF, 0x00000013⟩
  | .rotorEncodeChar _ => ⟨0xFFFF00FF, 0x00000014⟩

/-- The opcode table, in its order. -/
def opcodeTable : List OpcodeRow :=
  [.nop, .keySchedule, .keyGenerate, .encryptBlock, .decryptBlock, .rotorStageWiring 0 0, .rotorConfigure 0 0 0,
    .rotorSetPositions 0 0 0, .rotorReset, .rotorEncodeChar 0].map opcodeRow

/-- The word has the fixed bits of the row. -/
def OpcodeRow.fits (r : OpcodeRow) (w : Word) : Bool := w &&& r.mask == r.value

/-- The command word made of the `nbits` low bits of `w`, the bits above them zero. -/
def tableWord (nbits w : Nat) : Word := BitVec.ofNat 32 (w % 2 ^ nbits)

/-- The command the decoder reads from a table row's word `w` of `nbits` bits: `none` where the word is a
reserved-field or an illegal encoding, or has more than 32 bits. -/
def decodeTableWord (nbits w : Nat) : Option Instr :=
  if w % 2 ^ nbits < 2 ^ 32 then
    match decodeWord (tableWord nbits w) with
    | .command i => some i
    | .reservedField => none
    | .illegalOpcode => none
  else none

end Sys2Proof
end

