-- ==== Sys2Proof/Machine/Bits.lean ====
section
/-! DEFINITION. Bit vectors as the spec numbers them (00_scope.md R8, R9): element 1 is the most significant bit.
Element access, building a vector from its elements, the permutation primitive (40_permutation_tables.md R120), the
two words of a 64-bit quantity (20_memory.md R66), and left rotation (41_des_engine.md R156). -/

namespace Sys2Proof.Machine

/-- `bv{i}`, the element numbered `i` from 1 at the most significant end (00_scope.md R8). -/
def elemAt {m : Nat} (bv : BitVec m) (i : Nat) : Bool := bv.getMsbD (i - 1)

/-- `toNat` of R9: the number whose bits are `bs`, most significant first. -/
def natOfElems (bs : List Bool) : Nat := bs.foldl (fun acc b => 2 * acc + b.toNat) 0

/-- The vector of length `n` whose elements 1, 2, … are `bs` in order (00_scope.md R8, R9). -/
def ofElems (n : Nat) (bs : List Bool) : BitVec n := BitVec.ofNat n (natOfElems bs)

/-- `Perm(bv, T)`: element `i` of the result is element `T[i]` of the input (40_permutation_tables.md R120).
The output is as long as the table. -/
def perm {m n : Nat} (bv : BitVec m) (T : Vector Nat n) : BitVec n := ofElems n (T.toList.map (elemAt bv))

/-- Elements 1..32 of a 64-bit quantity: its HI register (20_memory.md R66). -/
def hiWord (v : BitVec 64) : Word := v.extractLsb' 32 32

/-- Elements 33..64 of a 64-bit quantity: its LO register (20_memory.md R66). -/
def loWord (v : BitVec 64) : Word := v.extractLsb' 0 32

/-- `hi ‖ lo`, the 64-bit quantity of two register words (10_state.md R23, 20_memory.md R66). -/
def joinWords (hi lo : Word) : BitVec 64 := hi ++ lo

/-- `rotl(v, k)`: left rotation toward element 1, so `rotl(v, k){i} = v{((i - 1 + k) mod 28) + 1}`
(41_des_engine.md R156). -/
def rotl (v : BitVec 28) (k : Nat) : BitVec 28 := v.rotateLeft k

/-- A bit as the number 0 or 1 in a register word. -/
def bitWord (b : Bool) : Word := if b then 1#32 else 0#32

end Sys2Proof.Machine
end

