-- ==== Sys2Proof/Machine/State.lean ====
section
/-! DEFINITION. The state of the core (10_state.md R20), the host's side of the bus, the ways a step can stop, and the
state after reset (70_reset_and_hazards.md R340). The core has no program counter and no memory beside these registers
(10_state.md R22, 00_scope.md R11): the host's next bus access takes the place of a fetched instruction. -/

namespace Sys2Proof.Machine

/-- What the host's side can do to the core between two steps (20_memory.md R63, 43_control.md R252 and R253,
70_reset_and_hazards.md R340). Offsets are byte offsets into the register window. -/
inductive HostEvent where
  /-- a 32-bit bus read, `BusRead(off)` -/
  | read (off : Nat)
  /-- a 32-bit bus write, `BusWrite(off, v)` -/
  | write (off : Nat) (v : Word)
  /-- an access that is not 32 bits wide: outside the interface contract (20_memory.md R63) -/
  | otherWidth (bits off : Nat)
  /-- the reset input, asserted between two accesses (70_reset_and_hazards.md R340) -/
  | reset
  deriving DecidableEq, Repr

/-- One rotor unit (10_state.md R29 to R34). -/
structure Rotor where
  /-- WIRING[r]: `wiring[i] = j` means that contact `i` is wired to contact `j` (R29) -/
  wiring : Vector Letter 26
  /-- REV[r], the inverse of WIRING[r] (R30) -/
  rev : Vector Letter 26
  /-- NOTCH[r] (R31) -/
  notch : Letter
  /-- POS[r], the current rotational offset (R32) -/
  pos : Letter
  /-- INIT[r], the position that ROTOR_RESET restores (R33) -/
  init : Letter
  /-- CFG[r]: this rotor holds a valid wiring (R34) -/
  cfg : Bool
  deriving DecidableEq, Repr

/-- A rotor after reset. NOTCH, POS, INIT and CFG are as R31 to R34 give them.
DESIGN CHOICE: WIRING and REV, whose reset value the spec leaves unspecified, are all zeros (notes/assumptions/2.md). -/
def Rotor.reset : Rotor where
  wiring := Vector.replicate 26 0
  rev := Vector.replicate 26 0
  notch := 0
  pos := 0
  init := 0
  cfg := false

/-- The state: the tuple of 10_state.md R20, then three fields of the model's own (`draws`, `pending`, `returned`). -/
structure State where
  /-- KEY, the cipher key (R23) -/
  key : BitVec 64
  /-- KEY_VALID: SK holds the subkeys of the current KEY (R24) -/
  keyValid : Bool
  /-- SK[1..16], the subkey file: entry `n` here is SK[n+1] (R25) -/
  sk : Vector Subkey 16
  /-- DATA, the input block (R26) -/
  data : BitVec 64
  /-- RESULT, the output block (R27) -/
  result : BitVec 64
  /-- the three rotors, rightmost first (R28) -/
  rotors : Vector Rotor 3
  /-- WSTAGE, the wiring staging buffer (R35) -/
  wstage : Vector Letter 26
  /-- CHAR_OUT, the output byte (R36) -/
  charOut : Byte
  /-- ERR, the outcome code of the last command (R39) -/
  err : BitVec 8
  /-- STICKY: some command has failed since reset (R40) -/
  sticky : Bool
  /-- the model's own: how many values KEY_GENERATE has drawn, the argument of `Config.freeEntropy` for the next draw
  (notes/assumptions/1.md) -/
  draws : Nat
  /-- the model's own: the host's accesses still to be performed, oldest first (notes/assumptions/3.md) -/
  pending : List HostEvent
  /-- the model's own: the values bus reads have returned to the host, oldest first (notes/assumptions/3.md) -/
  returned : List Word
  deriving DecidableEq, Repr

/-- The core has no trap and no fault: a failing command writes STATUS and the machine goes on (60_exceptions.md R300,
R304). So no step ends in a fault, nobody raises one, and this type has no constructor; that is safe, since nothing can
be proved from a fault that cannot be built. -/
inductive Fault : Type
  deriving DecidableEq, Repr

/-- Why a step is refused. -/
inductive Refusal where
  /-- Raised by a `Dispatch.exec` arm of a command without a meaning; no arm raises it now. Safe: the machine stops. -/
  | notModelled (mnemonic : String)
  /-- Raised by a bus access of a width other than 32 bits (20_memory.md R63, 93_implementation_defined.md I2).
  Safe: the machine stops where the spec says that a model must refuse. -/
  | accessWidth (bits : Nat)
  /-- Raised by a 32-bit access at an offset that is not a multiple of 4 (R63, I2). Safe: the machine stops. -/
  | misaligned (off : Nat)
  /-- Raised by a 32-bit access at an offset above 0x7F (R63, I2). Safe: the machine stops. -/
  | outsideWindow (off : Nat)
  deriving DecidableEq, Repr

/-- The machine right after reset (70_reset_and_hazards.md R340): every element at its reset value, no access pending.
DESIGN CHOICE: SK, whose reset value the spec leaves unspecified, is all zeros (notes/assumptions/2.md); `draws`,
`pending` and `returned` start at 0 and empty (notes/assumptions/1.md, 3.md). -/
def State.reset : State where
  key := 0
  keyValid := false
  sk := Vector.replicate 16 0
  data := 0
  result := 0
  rotors := Vector.replicate 3 Rotor.reset
  wstage := Vector.replicate 26 0
  charOut := 0
  err := 0
  sticky := false
  draws := 0
  pending := []
  returned := []

end Sys2Proof.Machine
end

