-- ==== Sys2Proof/Machine/Flags.lean ====
section
/-! DEFINITION. The flags: the error codes of STATUS.ERR (60_exceptions.md R301) and the STATUS word (10_state.md R38,
43_control.md R253). The core has no other flags (10_state.md R46). -/

namespace Sys2Proof.Machine

/-- The outcome of a failed command (60_exceptions.md R301). -/
inductive ErrCode where
  /-- ILLEGAL_OPCODE: OPC unassigned -/
  | illegalOpcode
  /-- RESERVED_FIELD: a field that must be zero is non-zero -/
  | reservedField
  /-- BAD_ARGUMENT: an index, rotor number, notch or position out of range -/
  | badArgument
  /-- NO_KEY: KEY_VALID = 0 -/
  | noKey
  /-- ROTOR_NOT_CONFIGURED: some CFG[r] = 0 -/
  | rotorNotConfigured
  /-- BAD_WIRING: a staged byte is not a letter, or WSTAGE is not a permutation -/
  | badWiring
  /-- BAD_CHAR: the input byte is of class REJECT -/
  | badChar
  deriving DecidableEq, Repr

/-- The code of an outcome in STATUS.ERR (60_exceptions.md R301). -/
def ErrCode.code : ErrCode → BitVec 8
  | .illegalOpcode => 0x01
  | .reservedField => 0x02
  | .badArgument => 0x03
  | .noKey => 0x04
  | .rotorNotConfigured => 0x05
  | .badWiring => 0x06
  | .badChar => 0x07

/-- The code OK of a successful command (60_exceptions.md R301). -/
def okCode : BitVec 8 := 0x00

/-- CFG[r] (10_state.md R34). -/
def State.cfg (s : State) (r : RotorNo) : Bool := s.rotors[r].cfg

/-- The STATUS word:
`zext_32(ERR << 8 | STICKY << 4 | CFG[2] << 3 | CFG[1] << 2 | CFG[0] << 1 | KEY_VALID)` (43_control.md R253). -/
def statusWord (s : State) : Word :=
  (s.err.setWidth 32 <<< 8) ||| (bitWord s.sticky <<< 4) ||| (bitWord (s.cfg 2) <<< 3) ||| (bitWord (s.cfg 1) <<< 2) |||
    (bitWord (s.cfg 0) <<< 1) ||| bitWord s.keyValid

end Sys2Proof.Machine
end

