-- ==== Sys2Proof/Machine/Ops.lean ====
section
/-! DEFINITION. The shared operations: how a command ends (00_scope.md R11, 60_exceptions.md R300), what stands at each
offset of the register window (20_memory.md R60, R62), reading it (43_control.md R253), and reset (70_reset_and_hazards.md
R340). A failed command is all the core has of an exception: nothing is saved and nothing is returned from
(60_exceptions.md R304, R305). -/

namespace Sys2Proof.Machine

/-- The outcome of a step or a command of this machine. -/
abbrev Result := Host.Outcome State Fault Refusal

/-- The state after a failed command: ERR takes the code, STICKY is set, nothing else changes (60_exceptions.md R300). -/
def State.failed (s : State) (e : ErrCode) : State := { s with err := e.code, sticky := true }

/-- The state after a successful command's own writes: ERR is 0 (00_scope.md R11). STICKY is kept (10_state.md R40). -/
def State.succeeded (s : State) : State := { s with err := okCode }

/-- `fail(code)` (00_scope.md R11, 60_exceptions.md R300). -/
def fail (e : ErrCode) (s : State) : Result := .next (s.failed e)

/-- `succeed()`, after the command's writes have made `s` (00_scope.md R11). -/
def succeed (s : State) : Result := .next s.succeeded

/-- What stands at an offset of the register window (20_memory.md R60). -/
inductive WindowReg where
  | id | status | cmd | keyHi | keyLo | dataHi | dataLo | resultHi | resultLo | charOut | rotorPos | rotorInit
  | rotorNotch | reserved
  deriving DecidableEq, Repr

/-- The address map (20_memory.md R60). Every other offset of the window is reserved. -/
def windowReg (off : Nat) : WindowReg :=
  match off with
  | 0x00 => .id
  | 0x04 => .status
  | 0x08 => .cmd
  | 0x10 => .keyHi
  | 0x14 => .keyLo
  | 0x18 => .dataHi
  | 0x1C => .dataLo
  | 0x20 => .resultHi
  | 0x24 => .resultLo
  | 0x28 => .charOut
  | 0x30 => .rotorPos
  | 0x34 => .rotorInit
  | 0x38 => .rotorNotch
  | _ => .reserved

/-- Why a 32-bit access at an offset is refused, or `none` where it is defined: a multiple of 4 in 0x00 to 0x7C
(20_memory.md R63). -/
def accessRefusal (off : Nat) : Option Refusal :=
  if 0x7F < off then some (.outsideWindow off)
  else if off % 4 ≠ 0 then some (.misaligned off)
  else none

/-- The ID register's constant (10_state.md R37). -/
def idWord : Word := 0x47365231

/-- The layout of the three rotor words: `zext_32(v[2] << 16 | v[1] << 8 | v[0])` (10_state.md R43 to R45). -/
def rotorWord (field : Rotor → Letter) (rs : Vector Rotor 3) : Word :=
  (BitVec.ofNat 32 (field rs[2]).val <<< 16) ||| (BitVec.ofNat 32 (field rs[1]).val <<< 8) |||
    BitVec.ofNat 32 (field rs[0]).val

/-- The value a read of a window register returns (43_control.md R253). CMD and reserved offsets read as 0. -/
def readReg (r : WindowReg) (s : State) : Word :=
  match r with
  | .id => idWord
  | .status => statusWord s
  | .cmd => 0
  | .keyHi => hiWord s.key
  | .keyLo => loWord s.key
  | .dataHi => hiWord s.data
  | .dataLo => loWord s.data
  | .resultHi => hiWord s.result
  | .resultLo => loWord s.result
  | .charOut => s.charOut.setWidth 32
  | .rotorPos => rotorWord Rotor.pos s.rotors
  | .rotorInit => rotorWord Rotor.init s.rotors
  | .rotorNotch => rotorWord Rotor.notch s.rotors
  | .reserved => 0

/-- `BusRead(off)` for a defined offset: the value alone; a read changes no state (43_control.md R253). -/
def busRead (off : Nat) (s : State) : Word := readReg (windowReg off) s

/-- The state after a bus write of `v` to a register other than CMD (43_control.md R252). A write to either half of KEY
clears KEY_VALID, whatever the value; a write to a read-only register or a reserved offset has no effect. -/
def writeReg (r : WindowReg) (v : Word) (s : State) : State :=
  match r with
  | .keyHi => { s with key := joinWords v (loWord s.key), keyValid := false }
  | .keyLo => { s with key := joinWords (hiWord s.key) v, keyValid := false }
  | .dataHi => { s with data := joinWords v (loWord s.data) }
  | .dataLo => { s with data := joinWords (hiWord s.data) v }
  | .id | .status | .cmd | .resultHi | .resultLo | .charOut | .rotorPos | .rotorInit | .rotorNotch | .reserved => s

/-- A read's value handed to the host: the model's record of what the bus returned (notes/assumptions/3.md). -/
def State.returning (s : State) (v : Word) : State := { s with returned := s.returned ++ [v] }

/-- Reset: every element of the core takes its reset value (70_reset_and_hazards.md R340). The host's pending accesses and
the values it has read are not the core's, and the entropy input goes on where it stood (notes/assumptions/1.md, 3.md). -/
def applyReset (s : State) : State :=
  { State.reset with draws := s.draws, pending := s.pending, returned := s.returned }

end Sys2Proof.Machine
end

