-- ==== Sys2Proof/Machine/Control.lean ====
section
/-! DEFINITION. The meaning of NOP (43_control.md R250). -/

namespace Sys2Proof.Machine

/-- NOP: succeeds, so ERR becomes 0; STICKY is kept (43_control.md R250). -/
def execNop (s : State) : Result := succeed s

end Sys2Proof.Machine
end

