-- ==== Sys2Proof/Config.lean ====
section
/-! DEFINITION. What a G6 cipher core's surroundings fix and the spec leaves OPEN (92_eei_decisions.md section 1): the
entropy input. `WINDOW_BASE` has no place here, because no rule depends on it (20_memory.md R60), and DES_TABLES is an
argument of the engine's functions (`Sys2Proof/Machine/Tables.lean`). -/

namespace Sys2Proof

/-- The ENTROPY input: the value `draw64()` returns at the draw of number `n`, under no law (00_scope.md R11,
41_des_engine.md R170, 93_implementation_defined.md I3). It has no body, so no proof can know a value of it.
DESIGN CHOICE: the draws are numbered by the model's counter `State.draws` (notes/assumptions/1.md). -/
opaque Config.freeEntropy : Nat → BitVec 64

end Sys2Proof
end

