-- ==== Sys2Proof/Machine/DesEngine.lean ====
section
/-! DEFINITION. The Feistel engine as pure functions of a table set (41_des_engine.md sections 2 to 4): the key schedule,
the round function and the block engine. -/

namespace Sys2Proof.Machine

/-- `(C0, D0)`: the parity drop and the split into two 28-bit halves (41_des_engine.md R155). -/
def keyHalves (T : DesTables) (K : BitVec 64) : BitVec 28 × BitVec 28 :=
  let CD0 := perm K T.pc1
  (CD0.extractLsb' 28 28, CD0.extractLsb' 0 28)

/-- The loop of R157 over the remaining shifts: rotate both halves, then compress `C ‖ D` to one subkey. -/
def subkeysFrom (T : DesTables) : List Nat → BitVec 28 → BitVec 28 → List Subkey
  | [], _, _ => []
  | k :: ks, C, D => perm (rotl C k ++ rotl D k) T.pc2 :: subkeysFrom T ks (rotl C k) (rotl D k)

/-- The loop of R157 yields one subkey a shift. -/
theorem length_subkeysFrom (T : DesTables) (ks : List Nat) (C D : BitVec 28) :
    (subkeysFrom T ks C D).length = ks.length := by
  induction ks generalizing C D with
  | nil => rfl
  | cons k ks ih => simp [subkeysFrom, ih]

/-- `KeySchedule(K)`: the sixteen subkeys in round order (41_des_engine.md R157). Entry `n` here is `K(n+1)` there. -/
def keySchedule (T : DesTables) (K : BitVec 64) : Vector Subkey 16 :=
  let cd := keyHalves T K
  ⟨(subkeysFrom T T.shifts.toList cd.1 cd.2).toArray, by simp [length_subkeysFrom]⟩

/-- `X = E(R) ⊕ Kn` (41_des_engine.md R159). -/
def expandXor (T : DesTables) (R : BitVec 32) (Kn : Subkey) : BitVec 48 := perm R T.e ^^^ Kn

/-- `Bg`, six-bit group `g` (counted from 0) of `X`: elements `6g+1 .. 6g+6` (41_des_engine.md R160). -/
def sixGroup (X : BitVec 48) (g : Nat) : BitVec 6 := X.extractLsb' (42 - 6 * g) 6

/-- The S-box row of a group: `2 * B{1} + B{6}` (41_des_engine.md R160). -/
def sboxRow (B : BitVec 6) : Nat := 2 * (elemAt B 1).toNat + (elemAt B 6).toNat

/-- The S-box column of a group: `toNat(B{2..5})`, `B{2}` most significant (41_des_engine.md R160, D9). -/
def sboxCol (B : BitVec 6) : Nat := natOfElems [elemAt B 2, elemAt B 3, elemAt B 4, elemAt B 5]

/-- `S_g[row][col]` for S-box number `g` counted from 0. -/
def sboxAt (T : DesTables) (g row col : Nat) : Nat :=
  match T.sbox.toList[g]? with
  | none => 0
  | some box =>
    match box.toList[row]? with
    | none => 0
    | some r => r.toList.getD col 0

/-- `Og`, the four-bit output of S-box `g` (counted from 0), most significant bit first (41_des_engine.md R160). -/
def sboxOut (T : DesTables) (X : BitVec 48) (g : Nat) : BitVec 4 :=
  BitVec.ofNat 4 (sboxAt T g (sboxRow (sixGroup X g)) (sboxCol (sixGroup X g)))

/-- `Y = O1 ‖ O2 ‖ ... ‖ O8` (41_des_engine.md R160). -/
def sboxBank (T : DesTables) (X : BitVec 48) : BitVec 32 :=
  sboxOut T X 0 ++ sboxOut T X 1 ++ sboxOut T X 2 ++ sboxOut T X 3 ++
    sboxOut T X 4 ++ sboxOut T X 5 ++ sboxOut T X 6 ++ sboxOut T X 7

/-- `Fround(R, Kn) = Perm(Y, P)` (41_des_engine.md R161). -/
def feistelRound (T : DesTables) (R : BitVec 32) (Kn : Subkey) : BitVec 32 :=
  perm (sboxBank T (expandXor T R Kn)) T.p

/-- The round loop of R162 over the round keys in the order given: `(L, R) <- (R, L ⊕ Fround(R, k))`. -/
def feistelRounds (T : DesTables) : List Subkey → BitVec 32 × BitVec 32 → BitVec 32 × BitVec 32
  | [], LR => LR
  | k :: ks, LR => feistelRounds T ks (LR.2, LR.1 ^^^ feistelRound T LR.2 k)

/-- `DesBlock(B, ks)`: initial permutation, the rounds, final swap, inverse permutation (41_des_engine.md R162). -/
def desBlock (T : DesTables) (B : BitVec 64) (ks : List Subkey) : BitVec 64 :=
  let B0 := perm B T.ip
  let LR := feistelRounds T ks (hiWord B0, loWord B0)
  perm (joinWords LR.2 LR.1) T.fp

/-- `Encrypt(B, SKS)`: the subkeys in round order (41_des_engine.md R163). -/
def encrypt (T : DesTables) (B : BitVec 64) (sks : Vector Subkey 16) : BitVec 64 := desBlock T B sks.toList

/-- `Decrypt(B, SKS)`: the subkeys in reverse order (41_des_engine.md R163). -/
def decrypt (T : DesTables) (B : BitVec 64) (sks : Vector Subkey 16) : BitVec 64 := desBlock T B sks.toList.reverse

end Sys2Proof.Machine
end

