-- ==== Sys2Proof/Machine/DesCommands.lean ====
section
/-! DEFINITION. The meanings of the four commands of the Feistel engine (41_des_engine.md R169 to R172). The check of the
reserved fields comes before them, in the decoder (60_exceptions.md R302). -/

namespace Sys2Proof.Machine

/-- The state with key `k` in KEY and its subkeys cached (41_des_engine.md R169, R170). -/
def State.withScheduled (s : State) (k : BitVec 64) : State :=
  { s with key := k, sk := keySchedule fipsTables k, keyValid := true }

/-- `draw64()`: the next value of the entropy input (00_scope.md R11, 41_des_engine.md R170). -/
def drawn (s : State) : BitVec 64 := Config.freeEntropy s.draws

/-- The state after a draw: the next draw is another one. -/
def State.afterDraw (s : State) : State := { s with draws := s.draws + 1 }

/-- KEY_SCHEDULE (41_des_engine.md R169). -/
def execKeySchedule (s : State) : Result := succeed (s.withScheduled s.key)

/-- KEY_GENERATE (41_des_engine.md R170). The core writes KEY itself, so KEY_VALID is set, not cleared. -/
def execKeyGenerate (s : State) : Result := succeed (s.afterDraw.withScheduled (drawn s))

/-- ENCRYPT_BLOCK (41_des_engine.md R171). -/
def execEncryptBlock (s : State) : Result :=
  if s.keyValid then succeed { s with result := encrypt fipsTables s.data s.sk } else fail .noKey s

/-- DECRYPT_BLOCK (41_des_engine.md R172). -/
def execDecryptBlock (s : State) : Result :=
  if s.keyValid then succeed { s with result := decrypt fipsTables s.data s.sk } else fail .noKey s

end Sys2Proof.Machine
end

