-- ==== Sys2Proof/Machine/Operands.lean ====
section
/-! DEFINITION. The operand forms of the commands: how an argument byte is read as an index, a rotor number, a letter of a
wiring, or an input character (30_encoding.md R92; 42_rotor_engine.md R215, R220 to R224). -/

namespace Sys2Proof.Machine

/-- An argument as an index, notch or position in [0,26); `none` if it exceeds 25 (42_rotor_engine.md R220 to R222). -/
def indexArg (b : Byte) : Option Letter := if h : b.toNat < 26 then some ⟨b.toNat, h⟩ else none

/-- An argument as a rotor number; `none` if it exceeds 2 (42_rotor_engine.md R221). -/
def rotorArg (b : Byte) : Option RotorNo := if h : b.toNat < 3 then some ⟨b.toNat, h⟩ else none

/-- `idx(c)` for 'A'..'Z', `none` for any other byte (00_scope.md R13). -/
def upperIndex (b : Byte) : Option Letter :=
  if h : 0x41 ≤ b.toNat ∧ b.toNat ≤ 0x5A then some ⟨b.toNat - 0x41, by omega⟩ else none

/-- The index of a lower-case letter 'a'..'z', `none` for any other byte (42_rotor_engine.md R220). -/
def lowerIndex (b : Byte) : Option Letter :=
  if h : 0x61 ≤ b.toNat ∧ b.toNat ≤ 0x7A then some ⟨b.toNat - 0x61, by omega⟩ else none

/-- A staged letter byte of either case; `none` if it is no letter (42_rotor_engine.md R220). -/
def wiringArg (b : Byte) : Option Letter := (upperIndex b).or (lowerIndex b)

/-- `chr(i) = 0x41 + i` (00_scope.md R13). -/
def chr (i : Letter) : Byte := BitVec.ofNat 8 (0x41 + i.val)

/-- The class of an input byte (42_rotor_engine.md R215). -/
inductive CharClass where
  /-- 'A'..'Z', with its index -/
  | letter (x : Letter)
  /-- refused with BAD_CHAR -/
  | reject
  /-- passed through unchanged, with no stepping -/
  | other
  deriving DecidableEq, Repr

/-- The REJECT bytes: 'a'..'z' and the Latin-1 letters (42_rotor_engine.md R215, 92_eei_decisions.md D20). -/
def isReject (b : Byte) : Bool :=
  let n := b.toNat
  (0x61 ≤ n && n ≤ 0x7A) || n == 0xAA || n == 0xB5 || n == 0xBA || (0xC0 ≤ n && n ≤ 0xD6) || (0xD8 ≤ n && n ≤ 0xF6) ||
    (0xF8 ≤ n && n ≤ 0xFF)

/-- The class of a byte (42_rotor_engine.md R215). -/
def charClass (b : Byte) : CharClass :=
  match upperIndex b with
  | some x => .letter x
  | none => if isReject b then .reject else .other

end Sys2Proof.Machine
end

