-- ==== Sys2Proof/Machine/RotorEngine.lean ====
section
/-! DEFINITION. The rotor engine (42_rotor_engine.md sections 1 to 3): unit maps, reflector, stepping and the letter path,
and building a rotor from the staged wiring (R221). `+` and `-` on `Letter` are arithmetic modulo 26 (00_scope.md R11,
R13). -/

namespace Sys2Proof.Machine

/-- `fwd(r, x) = (WIRING[r][(x + POS[r]) mod 26] - POS[r]) mod 26` (42_rotor_engine.md R201). -/
def fwd (R : Rotor) (x : Letter) : Letter := R.wiring[x + R.pos] - R.pos

/-- `bwd(r, x) = (REV[r][(x + POS[r]) mod 26] - POS[r]) mod 26` (42_rotor_engine.md R202). -/
def bwd (R : Rotor) (x : Letter) : Letter := R.rev[x + R.pos] - R.pos

/-- The reflector `refl(x) = 25 - x` (42_rotor_engine.md R205). -/
def refl (x : Letter) : Letter := 25 - x

/-- A rotor at another position. -/
def Rotor.at (R : Rotor) (p : Letter) : Rotor := { R with pos := p }

/-- `rotate(r)` on one unit: the next position (42_rotor_engine.md R210). -/
def rotateUnit (R : Rotor) : Rotor := R.at (R.pos + 1)

/-- The carry of a unit that has just rotated: its new position is its notch (42_rotor_engine.md R210). -/
def carry (R : Rotor) : Bool := R.pos == R.notch

/-- Rotor `r` of the bank rotated. -/
def rotateAt (rs : Vector Rotor 3) (r : RotorNo) : Vector Rotor 3 := rs.set r (rotateUnit rs[r])

/-- `stepAll()`: the rightmost rotates; the middle rotates on its carry; the leftmost on the middle's, in a step where
the middle rotated. The leftmost's carry is discarded (42_rotor_engine.md R211). -/
def stepAll (rs : Vector Rotor 3) : Vector Rotor 3 :=
  let rs0 := rotateAt rs 0
  if carry rs0[0] then
    let rs1 := rotateAt rs0 1
    if carry rs1[1] then rotateAt rs1 2 else rs1
  else rs0

/-- The signal path at fixed positions: forward through rotors 0, 1, 2, the reflector, backward through 2, 1, 0. This is
the letter path of R213 without its stepAll, the map `M` of R214. -/
def signalPath (rs : Vector Rotor 3) (x : Letter) : Letter :=
  bwd rs[0] (bwd rs[1] (bwd rs[2] (refl (fwd rs[2] (fwd rs[1] (fwd rs[0] x))))))

/-- A wiring table that is a bijection on [0,26): no value appears twice (42_rotor_engine.md R221). -/
def isBijection (w : Vector Letter 26) : Bool := decide w.toList.Nodup

/-- A table of letters with one entry replaced. -/
def setEntry (v : Vector Letter 26) (k x : Letter) : Vector Letter 26 := v.set k.val x k.isLt

/-- `for i in 0..25: REV[WSTAGE[i]] <- i`, the loop of R221 over the table `rev` it finds. -/
def reverseInto (rev w : Vector Letter 26) : Vector Letter 26 :=
  (List.finRange 26).foldl (fun v i => setEntry v w[i] i) rev

/-- Rotor unit `R` rebuilt from the wiring `w`, a notch and an initial position (42_rotor_engine.md R221). -/
def configured (R : Rotor) (w : Vector Letter 26) (notch init : Letter) : Rotor :=
  { wiring := w, rev := reverseInto R.rev w, notch := notch, init := init, pos := init, cfg := true }

/-- The three positions set directly; nothing else of a rotor changes (42_rotor_engine.md R222). -/
def atPositions (rs : Vector Rotor 3) (p0 p1 p2 : Letter) : Vector Rotor 3 :=
  #v[rs[0].at p0, rs[1].at p1, rs[2].at p2]

/-- Every rotor at its initial position (42_rotor_engine.md R223). -/
def atInit (rs : Vector Rotor 3) : Vector Rotor 3 := rs.map fun R => R.at R.init

end Sys2Proof.Machine
end

