-- ==== Sys2Proof/Machine/RotorCommands.lean ====
section
/-! DEFINITION. The meanings of the five commands of the rotor engine (42_rotor_engine.md R220 to R224), each with its
checks in the order its rule lists them. The check of the reserved fields comes before them, in the decoder
(60_exceptions.md R302). -/

namespace Sys2Proof.Machine

/-- ROTOR_STAGE_WIRING (42_rotor_engine.md R220). -/
def execRotorStageWiring (index letter : Byte) (s : State) : Result :=
  match indexArg index with
  | none => fail .badArgument s
  | some i =>
    match wiringArg letter with
    | none => fail .badWiring s
    | some v => succeed { s with wstage := setEntry s.wstage i v }

/-- ROTOR_CONFIGURE (42_rotor_engine.md R221). -/
def execRotorConfigure (rotor notch init : Byte) (s : State) : Result :=
  match rotorArg rotor, indexArg notch, indexArg init with
  | some r, some n, some p =>
    if isBijection s.wstage then succeed { s with rotors := s.rotors.set r (configured s.rotors[r] s.wstage n p) }
    else fail .badWiring s
  | _, _, _ => fail .badArgument s

/-- ROTOR_SET_POSITIONS (42_rotor_engine.md R222). -/
def execRotorSetPositions (pos0 pos1 pos2 : Byte) (s : State) : Result :=
  match indexArg pos0, indexArg pos1, indexArg pos2 with
  | some p0, some p1, some p2 => succeed { s with rotors := atPositions s.rotors p0 p1 p2 }
  | _, _, _ => fail .badArgument s

/-- ROTOR_RESET (42_rotor_engine.md R223). -/
def execRotorReset (s : State) : Result := succeed { s with rotors := atInit s.rotors }

/-- All three rotors hold a valid wiring: CFG = (1, 1, 1) (42_rotor_engine.md R224). -/
def allConfigured (s : State) : Bool := s.cfg 0 && s.cfg 1 && s.cfg 2

/-- ROTOR_ENCODE_CHAR (42_rotor_engine.md R224). A letter steps the rotors first, and the signal passes at the new
positions (R213). -/
def execRotorEncodeChar (char : Byte) (s : State) : Result :=
  if allConfigured s then
    match charClass char with
    | .reject => fail .badChar s
    | .other => succeed { s with charOut := char }
    | .letter x =>
      succeed { s with rotors := stepAll s.rotors, charOut := chr (signalPath (stepAll s.rotors) x) }
  else fail .rotorNotConfigured s

end Sys2Proof.Machine
end

