-- ==== Sys2Proof/Machine/Dispatch.lean ====
section
/-! DEFINITION. From a command to its meaning, one arm each. -/

namespace Sys2Proof.Machine

def exec (i : Instr) (s : State) : Host.Outcome State Fault Refusal :=
  match i with
  | .nop => Sys2Proof.Machine.execNop s
  | .keySchedule => Sys2Proof.Machine.execKeySchedule s
  | .keyGenerate => Sys2Proof.Machine.execKeyGenerate s
  | .encryptBlock => Sys2Proof.Machine.execEncryptBlock s
  | .decryptBlock => Sys2Proof.Machine.execDecryptBlock s
  | .rotorStageWiring index letter => Sys2Proof.Machine.execRotorStageWiring index letter s
  | .rotorConfigure rotor notch init => Sys2Proof.Machine.execRotorConfigure rotor notch init s
  | .rotorSetPositions pos0 pos1 pos2 => Sys2Proof.Machine.execRotorSetPositions pos0 pos1 pos2 s
  | .rotorReset => Sys2Proof.Machine.execRotorReset s
  | .rotorEncodeChar char => Sys2Proof.Machine.execRotorEncodeChar char s

end Sys2Proof.Machine
end

