-- ==== Sys2Proof/Machine/Bus.lean ====
section
/-! DEFINITION. The core's service of one host event: a command word written to CMD (60_exceptions.md R302), a bus write
(43_control.md R252), a bus read (R253), an access outside the contract (20_memory.md R63), and reset. -/

namespace Sys2Proof.Machine

/-- A word written to CMD: decode, OPC first and then the reserved fields, and run the command
(60_exceptions.md R302, 30_encoding.md R94 to R96). -/
def issueCommand (w : Word) (s : State) : Result :=
  match decodeWord w with
  | .command i => exec i s
  | .reservedField => fail .reservedField s
  | .illegalOpcode => fail .illegalOpcode s

/-- `BusWrite(off, v)` at a defined offset (43_control.md R252). -/
def busWrite (off : Nat) (v : Word) (s : State) : Result :=
  match windowReg off with
  | .cmd => issueCommand v s
  | r => .next (writeReg r v s)

/-- One host event performed, completely, before the next one starts (20_memory.md R70, R71). An access outside the
contract is refused (R63, 93_implementation_defined.md I2). -/
def serve (e : HostEvent) (s : State) : Result :=
  match e with
  | .read off =>
    match accessRefusal off with
    | some r => .refused r
    | none => .next (s.returning (busRead off s))
  | .write off v =>
    match accessRefusal off with
    | some r => .refused r
    | none => busWrite off v s
  | .otherWidth bits _ => .refused (.accessWidth bits)
  | .reset => .next (applyReset s)

end Sys2Proof.Machine
end

