-- ==== Sys2Proof/Machine/Step.lean ====
section
/-! DEFINITION. One step of the machine: the oldest pending host event is taken off the list and performed. With none
pending the core is idle and keeps its state (70_reset_and_hazards.md R341, 60_exceptions.md R323). -/

namespace Sys2Proof.Machine

/-- One step. Accesses are performed one at a time in the order the host issues them (20_memory.md R70). -/
def step (s : State) : Host.Outcome State Fault Refusal :=
  match s.pending with
  | [] => .next s
  | e :: rest => serve e { s with pending := rest }

/-- `s` with the command word of a table row as the host's next access: a write of it to CMD, before the accesses that
are pending already. The next step runs exactly that command (notes/assumptions/3.md). -/
def State.withFetchWord (s : State) (nbits w : Nat) : State :=
  { s with pending := .write 0x08 (tableWord nbits w) :: s.pending }

end Sys2Proof.Machine
end

