-- ==== Sys2Proof/Machine/HostSoftware.lean ====
section
/-! DEFINITION. The host-side reference procedures of 45_host_software.md. NOTHING HERE IS HARDWARE: `step` uses none of
it. The spec's scope leaves these procedures out of the core (00_scope.md R5); they are modelled because the spec states
them, over the same bus accesses (`serve`) that a step performs. -/

namespace Sys2Proof.Machine

/-- The host's software errors (45_host_software.md; the core never raises one), and a failed command as the host sees it. -/
inductive HostError where
  /-- a character with ordinal 256 or more (R270) -/
  | encodingError
  /-- a bit string that is not a multiple of 8 long (R271) -/
  | lengthError
  /-- a padding length outside [1,8] or beyond the text (R273) -/
  | paddingError
  /-- a bit string that is not a multiple of 64 long (R275, R276) -/
  | blockAlignmentError
  /-- a key that is not 16 hexadecimal digits (R274; the source's second name is InvalidKeyError) -/
  | invalidKeyLength
  /-- `pad` called on bits that are not byte-aligned: the host must refuse (R272, 93_implementation_defined.md I6) -/
  | padNotByteAligned
  /-- a command failed with this STATUS.ERR, and the host stops (R278) -/
  | commandFailed (err : Byte)
  /-- a bus access was refused (20_memory.md R63); no procedure here makes such an access -/
  | accessRefused (r : Refusal)
  deriving DecidableEq, Repr

/-- All the elements of a bit vector, element 1 first (00_scope.md R8). -/
def elemsOf {n : Nat} (v : BitVec n) : List Bool := (List.range n).map fun i => elemAt v (i + 1)

/-- `k` successive pieces of `n` elements. -/
def pieces {α : Type} (n : Nat) : Nat → List α → List (List α)
  | 0, _ => []
  | k + 1, xs => xs.take n :: pieces n k (xs.drop n)

/-- `textToBits` over the characters' ordinals (45_host_software.md R270). -/
def textToBits (text : List Nat) : Except HostError (List Bool) :=
  if text.all (· < 256) then .ok (text.flatMap fun c => elemsOf (BitVec.ofNat 8 c)) else .error .encodingError

/-- `bitsToText` (45_host_software.md R271). -/
def bitsToText (bits : List Bool) : Except HostError (List Nat) :=
  if bits.length % 8 = 0 then .ok ((pieces 8 (bits.length / 8) bits).map natOfElems) else .error .lengthError

/-- The padding length in bytes, always in [1,8] (45_host_software.md R272). -/
def padLen (bits : List Bool) : Nat := 8 - bits.length / 8 % 8

/-- `pad` (45_host_software.md R272). -/
def pad (bits : List Bool) : Except HostError (List Bool) :=
  if bits.length % 8 = 0 then
    .ok (bits ++ (List.replicate (padLen bits) (elemsOf (BitVec.ofNat 8 (padLen bits)))).flatten)
  else .error .padNotByteAligned

/-- `unpad`: only the last byte is checked (45_host_software.md R273). -/
def unpad (bits : List Bool) : Except HostError (List Bool) :=
  let n := natOfElems (bits.drop (bits.length - 8))
  if n < 1 ∨ 8 < n ∨ bits.length < n * 8 then .error .paddingError else .ok (bits.take (bits.length - 8 * n))

/-- The value of a hexadecimal digit, either case (45_host_software.md R274, 93_implementation_defined.md I7). -/
def hexValue (c : Char) : Option (BitVec 4) :=
  let n := c.toNat
  if 0x30 ≤ n ∧ n ≤ 0x39 then some (BitVec.ofNat 4 (n - 0x30))
  else if 0x41 ≤ n ∧ n ≤ 0x46 then some (BitVec.ofNat 4 (n - 0x41 + 10))
  else if 0x61 ≤ n ∧ n ≤ 0x66 then some (BitVec.ofNat 4 (n - 0x61 + 10))
  else none

/-- The upper-case hexadecimal digit of four bits (45_host_software.md R274). -/
def hexDigit (v : BitVec 4) : Char :=
  if v.toNat < 10 then Char.ofNat (0x30 + v.toNat) else Char.ofNat (0x41 + (v.toNat - 10))

/-- `keyFromHex`: exactly 16 digits, each 4 bits, in string order (45_host_software.md R274). -/
def keyFromHex (s : List Char) : Except HostError (BitVec 64) :=
  if s.length = 16 then
    match s.mapM hexValue with
    | some ds => .ok (ofElems 64 (ds.flatMap elemsOf))
    | none => .error .invalidKeyLength
  else .error .invalidKeyLength

/-- `keyToHex`, 16 upper-case digits (45_host_software.md R274). -/
def keyToHex (k : BitVec 64) : List Char :=
  (pieces 4 16 (elemsOf k)).map fun q => hexDigit (ofElems 4 q)

/-- `cmd MNEMONIC a, b, c`: the bus write that issues a command (30_encoding.md R98). -/
def cmdEvent (i : Instr) : HostEvent := .write 0x08 (encode i)

/-- `setkey V64` (30_encoding.md R98). -/
def setKeyEvents (k : BitVec 64) : List HostEvent := [.write 0x10 (hiWord k), .write 0x14 (loWord k)]

/-- `setdata V64` (30_encoding.md R98). -/
def setDataEvents (b : BitVec 64) : List HostEvent := [.write 0x18 (hiWord b), .write 0x1C (loWord b)]

/-- `loadrotor r, W, notch, init`: 26 staging commands in order, then ROTOR_CONFIGURE (30_encoding.md R98). -/
def loadRotorEvents (r : Byte) (w : List Byte) (notch init : Byte) : List HostEvent :=
  ((w.take 26).zipIdx.map fun p => cmdEvent (.rotorStageWiring (BitVec.ofNat 8 p.2) p.1)) ++
    [cmdEvent (.rotorConfigure r notch init)]

/-- The host makes its accesses one after another, each performed before the next (20_memory.md R70). -/
def hostAccesses : List HostEvent → State → Except HostError State
  | [], s => .ok s
  | e :: es, s =>
    match serve e s with
    | .next t => hostAccesses es t
    | .refused r => .error (.accessRefused r)

/-- The ERR field of the STATUS word the host reads (10_state.md R38). -/
def statusErr (s : State) : Byte := (busRead 0x04 s).extractLsb' 8 8

/-- The host issues a command and stops if STATUS reports a failure (45_host_software.md R278).
DESIGN CHOICE: the host looks at STATUS after every command, in the ECB procedures too (notes/assumptions/6.md). -/
def hostCommand (i : Instr) (s : State) : Except HostError State :=
  match hostAccesses [cmdEvent i] s with
  | .error e => .error e
  | .ok t => if statusErr t = 0 then .ok t else .error (.commandFailed (statusErr t))

/-- One block through the core: `setdata`, the block command, `rdresult` (45_host_software.md R275, R276). -/
def hostBlock (i : Instr) (b : BitVec 64) (s : State) : Except HostError (BitVec 64 × State) :=
  match hostAccesses (setDataEvents b) s with
  | .error e => .error e
  | .ok t =>
    match hostCommand i t with
    | .error e => .error e
    | .ok u => .ok (joinWords (busRead 0x20 u) (busRead 0x24 u), u)

/-- The blocks of a message, each on its own, the outputs joined in order (45_host_software.md R275, R276). -/
def hostBlocks (i : Instr) : List (List Bool) → State → Except HostError (List Bool × State)
  | [], s => .ok ([], s)
  | b :: bs, s =>
    match hostBlock i (ofElems 64 b) s with
    | .error e => .error e
    | .ok (o, t) =>
      match hostBlocks i bs t with
      | .error e => .error e
      | .ok (os, u) => .ok (elemsOf o ++ os, u)

/-- `ecbEncrypt(text)`: encode, pad, then each block (45_host_software.md R275, 90_conflicts.md C2). -/
def ecbEncrypt (text : List Nat) (s : State) : Except HostError (List Bool × State) :=
  match textToBits text with
  | .error e => .error e
  | .ok raw =>
    match pad raw with
    | .error e => .error e
    | .ok bits =>
      if bits.length % 64 = 0 then hostBlocks .encryptBlock (pieces 64 (bits.length / 64) bits) s
      else .error .blockAlignmentError

/-- `ecbDecrypt(bits)` (45_host_software.md R276). -/
def ecbDecrypt (bits : List Bool) (s : State) : Except HostError (List Nat × State) :=
  if bits.length % 64 = 0 then
    match hostBlocks .decryptBlock (pieces 64 (bits.length / 64) bits) s with
    | .error e => .error e
    | .ok (out, t) =>
      match unpad out with
      | .error e => .error e
      | .ok raw =>
        match bitsToText raw with
        | .error e => .error e
        | .ok text => .ok (text, t)
  else .error .blockAlignmentError

/-- `encode c` for each byte in turn: ROTOR_ENCODE_CHAR, then a read of CHAR_OUT (30_encoding.md R98,
45_host_software.md R278). -/
def hostEncode : List Byte → State → Except HostError (List Byte × State)
  | [], s => .ok ([], s)
  | c :: cs, s =>
    match hostCommand (.rotorEncodeChar c) s with
    | .error e => .error e
    | .ok t =>
      match hostEncode cs t with
      | .error e => .error e
      | .ok (os, u) => .ok ((busRead 0x28 t).setWidth 8 :: os, u)

/-- `hybridEncrypt(plaintext)` (45_host_software.md R278). -/
def hybridEncrypt (plaintext : List Byte) (s : State) : Except HostError (List Bool × State) :=
  match hostCommand .rotorReset s with
  | .error e => .error e
  | .ok t =>
    match hostEncode plaintext t with
    | .error e => .error e
    | .ok (rotorOut, u) => ecbEncrypt (rotorOut.map BitVec.toNat) u

/-- `hybridDecrypt(cipherBits)` (45_host_software.md R279). -/
def hybridDecrypt (cipherBits : List Bool) (s : State) : Except HostError (List Byte × State) :=
  match ecbDecrypt cipherBits s with
  | .error e => .error e
  | .ok (desOut, t) =>
    match hostCommand .rotorReset t with
    | .error e => .error e
    | .ok u => hostEncode (desOut.map (BitVec.ofNat 8)) u

end Sys2Proof.Machine
end

