-- ==== Sys2Proof/WellFormed.lean ====
section
/-! DEFINITION. The static checks of a command: whether its argument fields lie in the ranges that 30_encoding.md R93 and
the command's own rule give them. Every word with zero reserved fields is a command all the same (R96): the core runs an
ill-formed one and it fails with a code (60_exceptions.md R302), so nothing in the machine depends on this predicate. -/

namespace Sys2Proof

/-- An index, notch or position in [0,26) (42_rotor_engine.md R220, R221, R222). -/
def isIndexByte (b : Byte) : Bool := decide (b.toNat ≤ 25)

/-- A rotor number 0, 1 or 2 (42_rotor_engine.md R221). -/
def isRotorByte (b : Byte) : Bool := decide (b.toNat ≤ 2)

/-- An ASCII letter of either case (42_rotor_engine.md R220). -/
def isLetterByte (b : Byte) : Bool :=
  decide (0x41 ≤ b.toNat ∧ b.toNat ≤ 0x5A) || decide (0x61 ≤ b.toNat ∧ b.toNat ≤ 0x7A)

/-- A byte the core refuses to encode: class REJECT (42_rotor_engine.md R215). -/
def isRejectByte (b : Byte) : Bool :=
  decide (0x61 ≤ b.toNat ∧ b.toNat ≤ 0x7A) || b.toNat == 0xAA || b.toNat == 0xB5 || b.toNat == 0xBA ||
    decide (0xC0 ≤ b.toNat ∧ b.toNat ≤ 0xD6) || decide (0xD8 ≤ b.toNat ∧ b.toNat ≤ 0xF6) || decide (0xF8 ≤ b.toNat)

/-- Every argument field of the command is in the range its rule gives it. -/
def Instr.wellFormed : Instr → Bool
  | .nop | .keySchedule | .keyGenerate | .encryptBlock | .decryptBlock | .rotorReset => true
  | .rotorStageWiring index letter => isIndexByte index && isLetterByte letter
  | .rotorConfigure rotor notch init => isRotorByte rotor && isIndexByte notch && isIndexByte init
  | .rotorSetPositions pos0 pos1 pos2 => isIndexByte pos0 && isIndexByte pos1 && isIndexByte pos2
  | .rotorEncodeChar char => !isRejectByte char

end Sys2Proof
end

