-- ==== Sys2Proof/Safety.lean ====
section
/-! DEFINITION. What claims about runs are stated in: which host events keep the interface contract, a failing
command word, the order of the checks, the invariant of the core's state, a safe state, and states that no rule tells
apart. -/

namespace Sys2Proof.Machine

/-- A host event inside the interface contract: an aligned 32-bit access in the window (20_memory.md R63), or reset. -/
def HostEvent.legal : HostEvent → Bool
  | .read off => decide (off % 4 = 0 ∧ off ≤ 0x7C)
  | .write off _ => decide (off % 4 = 0 ∧ off ≤ 0x7C)
  | .otherWidth _ _ => false
  | .reset => true

/-- `s` with `e` as the host's next event and `rest` after it. -/
def State.onBus (s : State) (e : HostEvent) (rest : List HostEvent) : State := { s with pending := e :: rest }

/-- Writing the word `w` to CMD in state `s` fails with the code: ERR and STICKY are written and nothing else
(60_exceptions.md R300). -/
def FailsWith (code : BitVec 8) (w : Word) (s : State) : Prop :=
  ∀ rest, step (s.onBus (.write 0x08 w) rest) = .next { s with pending := rest, err := code, sticky := true }

/-- The codes OPC of 30_encoding.md R93. -/
def assignedOPC (opc : Nat) : Bool := decide (opc ≤ 0x04 ∨ (0x10 ≤ opc ∧ opc ≤ 0x14))

/-- A field that R93 marks `0` is not zero: by OPC and the fields A, B, C. -/
def reservedNonZero (opc a b c : Nat) : Bool :=
  (decide (opc ≤ 0x04 ∨ opc = 0x13) && decide (a ≠ 0 ∨ b ≠ 0 ∨ c ≠ 0)) || (opc == 0x10 && decide (c ≠ 0)) ||
    (opc == 0x14 && decide (b ≠ 0 ∨ c ≠ 0))

/-- An argument field is out of the range its command gives it: by OPC and the fields A, B, C
(42_rotor_engine.md R220 to R222). -/
def argumentOutOfRange (opc a b c : Nat) : Bool :=
  (opc == 0x10 && decide (25 < a)) || (opc == 0x11 && decide (2 < a ∨ 25 < b ∨ 25 < c)) ||
    (opc == 0x12 && decide (25 < a ∨ 25 < b ∨ 25 < c))

/-- The one code that the check order of 60_exceptions.md R302 gives the word `w` in state `s`: opcode, reserved fields,
argument ranges, readiness, data; 0 if every check passes. -/
def firstFailedCheck (w : Word) (s : State) : BitVec 8 :=
  let opc := (fieldOPC w).toNat
  let a := (fieldA w).toNat
  let b := (fieldB w).toNat
  let c := (fieldC w).toNat
  if assignedOPC opc = false then 0x01
  else if reservedNonZero opc a b c then 0x02
  else if argumentOutOfRange opc a b c then 0x03
  else if (opc = 0x03 ∨ opc = 0x04) ∧ s.keyValid = false then 0x04
  else if opc = 0x14 ∧ (s.rotors[0].cfg && s.rotors[1].cfg && s.rotors[2].cfg) = false then 0x05
  else if opc = 0x10 ∧ isLetterByte (fieldB w) = false then 0x06
  else if opc = 0x11 ∧ ¬ s.wstage.toList.Nodup then 0x06
  else if opc = 0x14 ∧ isRejectByte (fieldA w) = true then 0x07
  else 0x00

/-- A configured rotor's wiring is a bijection on [0,26), and REV is its inverse (10_state.md R29, R30). -/
def RotorOk (R : Rotor) : Prop :=
  R.cfg = true → Function.Bijective (fun i : Letter => R.wiring[i]) ∧ ∀ i : Letter, R.rev[R.wiring[i]] = i

/-- The invariant of the core's state. -/
structure CoreInv (s : State) : Prop where
  /-- while KEY_VALID = 1, SK is KeySchedule(KEY) (10_state.md R24, 20_memory.md R75) -/
  keyCache : s.keyValid = true → s.sk = keySchedule fipsTables s.key
  /-- every configured rotor holds a bijection and its inverse (10_state.md R29, R30) -/
  rotors : ∀ r : RotorNo, RotorOk s.rotors[r]
  /-- ERR takes the values 0x00 to 0x07 only (10_state.md R39) -/
  errLegal : s.err.toNat ≤ 7
  /-- a command that failed has set STICKY (10_state.md R40) -/
  stickyAfterError : s.err ≠ 0 → s.sticky = true

/-- A safe state: the invariant holds and every pending access keeps the contract. -/
structure Safe (s : State) : Prop where
  inv : CoreInv s
  legal : ∀ e ∈ s.pending, e.legal = true

/-- Two states that differ at most where the spec calls a reset value unspecified and unobservable: in SK while
KEY_VALID = 0, and in WIRING[r] and REV[r] while CFG[r] = 0 (10_state.md R25, R29, R30). -/
structure AgreeObservably (s t : State) : Prop where
  key : s.key = t.key
  keyValid : s.keyValid = t.keyValid
  sk : s.keyValid = true → s.sk = t.sk
  data : s.data = t.data
  result : s.result = t.result
  notch : ∀ r : RotorNo, s.rotors[r].notch = t.rotors[r].notch
  pos : ∀ r : RotorNo, s.rotors[r].pos = t.rotors[r].pos
  init : ∀ r : RotorNo, s.rotors[r].init = t.rotors[r].init
  cfg : ∀ r : RotorNo, s.cfg r = t.cfg r
  wiring : ∀ r : RotorNo, s.cfg r = true → s.rotors[r].wiring = t.rotors[r].wiring
  rev : ∀ r : RotorNo, s.cfg r = true → s.rotors[r].rev = t.rotors[r].rev
  wstage : s.wstage = t.wstage
  charOut : s.charOut = t.charOut
  err : s.err = t.err
  sticky : s.sticky = t.sticky
  draws : s.draws = t.draws
  pending : s.pending = t.pending
  returned : s.returned = t.returned

end Sys2Proof.Machine
end

