-- ==== Sys2Proof/Certificates/Slice0/Obligations.lean ====
section
/-! DEFINITION. The statements for the provers. Each is a rule of spec/, or a consequence of rules, about this model.
Where a next state is given in full, it is the frame too: every element that the state expression does not name is
unchanged. `s.onBus e rest` is any state `s` whose next host event is `e`. -/

open Sys2Proof Sys2Proof.Machine

/-! ## Encoding -/

/-- Words of the spec's own examples decode to the commands they stand for (30_encoding.md R98; 41_des_engine.md R169 to
R172; 42_rotor_engine.md R220 to R224; 43_control.md R250). -/
def Obligations.SpecWordsDecode : Prop :=
  decodeWord 0x00000000 = .command .nop ∧
  decodeWord 0x00000001 = .command .keySchedule ∧
  decodeWord 0x00000002 = .command .keyGenerate ∧
  decodeWord 0x00000003 = .command .encryptBlock ∧
  decodeWord 0x00000004 = .command .decryptBlock ∧
  decodeWord 0x00450010 = .command (.rotorStageWiring 0 0x45) ∧
  decodeWord 0x00100011 = .command (.rotorConfigure 0 16 0) ∧
  decodeWord 0x00040312 = .command (.rotorSetPositions 3 4 0) ∧
  decodeWord 0x00000013 = .command .rotorReset ∧
  decodeWord 0x00004814 = .command (.rotorEncodeChar 0x48) ∧
  decodeWord 0x00000103 = .reservedField ∧
  decodeWord 0xFFFFFFFF = .illegalOpcode

/-- Decoding and encoding agree. Decoding the word of a command gives the command back, for every command and every value of
its argument fields; and a word that decodes to a command is that command's only word, so no bit of it is dropped
(30_encoding.md R91, R93, R94). -/
def Obligations.DecodeAndEncodeAgree : Prop :=
  (∀ i : Instr, decodeWord (encode i) = .command i) ∧
  ∀ (w : Word) (i : Instr), decodeWord w = .command i → encode i = w

/-- Decoding is total: each word is exactly one of an assigned command (it fits a row of the opcode table), a
reserved-field encoding (assigned OPC, no row fits) or an illegal encoding (unassigned OPC), and OPC is looked at first
(30_encoding.md R96). -/
def Obligations.EveryWordHasOneClass : Prop :=
  ∀ w : Word,
    ((∃ i, decodeWord w = .command i) ↔ ∃ row ∈ opcodeTable, row.fits w = true) ∧
    (decodeWord w = .reservedField ↔
      assignedOPC (fieldOPC w).toNat = true ∧ ∀ row ∈ opcodeTable, row.fits w = false) ∧
    (decodeWord w = .illegalOpcode ↔ assignedOPC (fieldOPC w).toNat = false)

/-! ## The step -/

/-- A step performs the oldest pending host event on the rest of the state and takes it off the list; with none pending
the core idles (20_memory.md R70, 70_reset_and_hazards.md R341). The list of pending events is the model's own
(notes/assumptions/3.md). -/
def Obligations.StepServesOldestEvent : Prop :=
  (∀ s : State, s.pending = [] → step s = .next s) ∧
  ∀ (s : State) (e : HostEvent) (rest : List HostEvent), s.pending = e :: rest → step s = serve e { s with pending := rest }

/-- When the host's next event writes a word to CMD and the word decodes to a command, the step is that command's meaning
on the state with the event taken off, and nothing else (10_state.md R41, 20_memory.md R71). -/
def Obligations.StepRunsDecodedCommand : Prop :=
  ∀ (s : State) (w : Word) (i : Instr) (rest : List HostEvent), decodeWord w = .command i →
    step (s.onBus (.write 0x08 w) rest) = exec i { s with pending := rest }

/-- A word whose OPC is unassigned fails with ILLEGAL_OPCODE, whatever its other fields and the state; nothing but ERR and
STICKY changes (43_control.md R251). -/
def Obligations.IllegalWordsFail : Prop :=
  ∀ (s : State) (w : Word),
    (0x05 ≤ (fieldOPC w).toNat ∧ (fieldOPC w).toNat ≤ 0x0F) ∨ 0x15 ≤ (fieldOPC w).toNat → FailsWith 0x01 w s

/-- A word with an assigned OPC and a non-zero reserved field fails with RESERVED_FIELD and changes only STATUS, and the
same word with the reserved fields cleared is accepted as a command (30_encoding.md R94). -/
def Obligations.ReservedFieldWordsFail : Prop :=
  (∀ (s : State) (w : Word),
    (((fieldOPC w).toNat ≤ 0x04 ∨ (fieldOPC w).toNat = 0x13) ∧ (fieldA w ≠ 0 ∨ fieldB w ≠ 0 ∨ fieldC w ≠ 0)) ∨
      ((fieldOPC w).toNat = 0x10 ∧ fieldC w ≠ 0) ∨
      ((fieldOPC w).toNat = 0x14 ∧ (fieldB w ≠ 0 ∨ fieldC w ≠ 0)) →
    FailsWith 0x02 w s) ∧
  (∀ w : Word, (fieldOPC w).toNat ≤ 0x04 ∨ (fieldOPC w).toNat = 0x13 → ∃ i, decodeWord (w &&& 0x000000FF) = .command i) ∧
  (∀ w : Word, (fieldOPC w).toNat = 0x10 → ∃ i, decodeWord (w &&& 0x00FFFFFF) = .command i) ∧
  (∀ w : Word, (fieldOPC w).toNat = 0x14 → ∃ i, decodeWord (w &&& 0x0000FFFF) = .command i) ∧
  decodeWord 0x00000103 = .reservedField ∧ decodeWord 0x00000003 = .command .encryptBlock

/-- A command that ends with an error code has written ERR and STICKY and nothing else: no partial update, for every
command word (60_exceptions.md R300). -/
def Obligations.FailedCommandChangesOnlyStatus : Prop :=
  ∀ (w : Word) (s t : State), issueCommand w s = .next t → t.err ≠ 0 →
    t = { s with err := t.err, sticky := true }

/-- Every command word completes in a next state, and its ERR is the code of the first check that fails in the order
opcode, reserved fields, argument ranges, readiness, data, or 0 if all pass (60_exceptions.md R302). -/
def Obligations.FirstFailedCheckDecidesErr : Prop :=
  ∀ (w : Word) (s : State), ∃ t, issueCommand w s = .next t ∧ t.err = firstFailedCheck w s

/-! ## The register window -/

/-- STATUS: what a read returns, field by field, the ignored writes, and the reset word (10_state.md R38). -/
def Obligations.StatusFields : Prop :=
  (∀ (s : State) (rest : List HostEvent), ∃ v : Word,
    step (s.onBus (.read 0x04) rest) = .next { s with pending := rest, returned := s.returned ++ [v] } ∧
    v.getLsbD 0 = s.keyValid ∧
    v.getLsbD 1 = s.rotors[0].cfg ∧
    v.getLsbD 2 = s.rotors[1].cfg ∧
    v.getLsbD 3 = s.rotors[2].cfg ∧
    v.getLsbD 4 = s.sticky ∧
    v.extractLsb' 5 3 = 0 ∧
    v.extractLsb' 8 8 = s.err ∧
    v.extractLsb' 16 16 = 0) ∧
  (∀ (s : State) (v : Word) (rest : List HostEvent),
    step (s.onBus (.write 0x04 v) rest) = .next { s with pending := rest }) ∧
  ∃ t, step (State.reset.onBus (.read 0x04) []) = .next t ∧ t.returned = [0]

/-- The three rotor words: what a read returns, field by field and as a number, the ignored writes, and the reset value
(10_state.md R43, R44, R45). -/
def Obligations.RotorWordFields : Prop :=
  ∀ (off : Nat) (field : Rotor → Letter),
    (off = 0x30 ∧ field = Rotor.pos) ∨ (off = 0x34 ∧ field = Rotor.init) ∨ (off = 0x38 ∧ field = Rotor.notch) →
    (∀ (s : State) (rest : List HostEvent), ∃ v : Word,
      step (s.onBus (.read off) rest) = .next { s with pending := rest, returned := s.returned ++ [v] } ∧
      (v.extractLsb' 0 5).toNat = (field s.rotors[0]).val ∧
      (v.extractLsb' 8 5).toNat = (field s.rotors[1]).val ∧
      (v.extractLsb' 16 5).toNat = (field s.rotors[2]).val ∧
      v.toNat = (field s.rotors[2]).val * 65536 + (field s.rotors[1]).val * 256 + (field s.rotors[0]).val) ∧
    (∀ (s : State) (v : Word) (rest : List HostEvent),
      step (s.onBus (.write off v) rest) = .next { s with pending := rest }) ∧
    ∃ t, step (State.reset.onBus (.read off) []) = .next t ∧ t.returned = [0]

/-- KEY, DATA and RESULT through their word registers: a write stores all 32 bits of its half and keeps the other half, a
KEY write also clears KEY_VALID, a RESULT write is ignored, and a read returns the stored word (10_state.md R42). -/
def Obligations.HalfRegistersStoreAndRead : Prop :=
  ∀ (s : State) (w : Word) (rest : List HostEvent),
    (∃ K : BitVec 64,
      step (s.onBus (.write 0x10 w) rest) = .next { s with pending := rest, key := K, keyValid := false } ∧
      (∀ i, 1 ≤ i → i ≤ 32 → elemAt K i = elemAt w i) ∧ ∀ i, 33 ≤ i → i ≤ 64 → elemAt K i = elemAt s.key i) ∧
    (∃ K : BitVec 64,
      step (s.onBus (.write 0x14 w) rest) = .next { s with pending := rest, key := K, keyValid := false } ∧
      (∀ i, 1 ≤ i → i ≤ 32 → elemAt K i = elemAt s.key i) ∧ ∀ i, 33 ≤ i → i ≤ 64 → elemAt K i = elemAt w (i - 32)) ∧
    (∃ D : BitVec 64,
      step (s.onBus (.write 0x18 w) rest) = .next { s with pending := rest, data := D } ∧
      (∀ i, 1 ≤ i → i ≤ 32 → elemAt D i = elemAt w i) ∧ ∀ i, 33 ≤ i → i ≤ 64 → elemAt D i = elemAt s.data i) ∧
    (∃ D : BitVec 64,
      step (s.onBus (.write 0x1C w) rest) = .next { s with pending := rest, data := D } ∧
      (∀ i, 1 ≤ i → i ≤ 32 → elemAt D i = elemAt s.data i) ∧ ∀ i, 33 ≤ i → i ≤ 64 → elemAt D i = elemAt w (i - 32)) ∧
    step (s.onBus (.write 0x20 w) rest) = .next { s with pending := rest } ∧
    step (s.onBus (.write 0x24 w) rest) = .next { s with pending := rest } ∧
    ∀ (off : Nat) (q : BitVec 64),
      (off = 0x10 ∧ q = s.key) ∨ (off = 0x18 ∧ q = s.data) ∨ (off = 0x20 ∧ q = s.result) →
      ∃ hi lo : Word,
        step (s.onBus (.read off) rest) = .next { s with pending := rest, returned := s.returned ++ [hi] } ∧
        step (s.onBus (.read (off + 4)) rest) = .next { s with pending := rest, returned := s.returned ++ [lo] } ∧
        (∀ i, 1 ≤ i → i ≤ 32 → elemAt hi i = elemAt q i) ∧ ∀ i, 1 ≤ i → i ≤ 32 → elemAt lo i = elemAt q (32 + i)

/-- ID reads as its constant in every state, CHAR_OUT reads zero-extended, and writes to either are ignored
(10_state.md R36, R37). -/
def Obligations.IdAndCharOutReads : Prop :=
  ∀ (s : State) (w : Word) (rest : List HostEvent),
    step (s.onBus (.read 0x00) rest) = .next { s with pending := rest, returned := s.returned ++ [0x47365231] } ∧
    step (s.onBus (.write 0x00 w) rest) = .next { s with pending := rest } ∧
    (∃ v : Word, step (s.onBus (.read 0x28) rest) = .next { s with pending := rest, returned := s.returned ++ [v] } ∧
      v.extractLsb' 0 8 = s.charOut ∧ v.extractLsb' 8 24 = 0) ∧
    step (s.onBus (.write 0x28 w) rest) = .next { s with pending := rest }

/-- Reserved offsets read as 0 and ignore writes, read-only registers ignore writes, and CMD reads as 0; ERR and STICKY
are among what does not change (20_memory.md R62). -/
def Obligations.ReservedAndReadOnlyOffsets : Prop :=
  ∀ (s : State) (off : Nat) (w : Word) (rest : List HostEvent),
    (off = 0x0C ∨ off = 0x2C ∨ off = 0x3C ∨ (0x40 ≤ off ∧ off ≤ 0x7C ∧ off % 4 = 0) →
      step (s.onBus (.read off) rest) = .next { s with pending := rest, returned := s.returned ++ [0] } ∧
      step (s.onBus (.write off w) rest) = .next { s with pending := rest }) ∧
    (off = 0x00 ∨ off = 0x04 ∨ off = 0x20 ∨ off = 0x24 ∨ off = 0x28 ∨ off = 0x30 ∨ off = 0x34 ∨ off = 0x38 →
      step (s.onBus (.write off w) rest) = .next { s with pending := rest }) ∧
    step (s.onBus (.read 0x08) rest) = .next { s with pending := rest, returned := s.returned ++ [0] }

/-- A read has no side effect: two reads of one offset return the same value, and both leave the core as it was
(20_memory.md R64). The record of returned values is the model's own (notes/assumptions/3.md). -/
def Obligations.ReadsAreIdempotent : Prop :=
  ∀ (s : State) (off : Nat) (rest : List HostEvent), off % 4 = 0 → off ≤ 0x7C →
    ∃ (v : Word) (t : State),
      step (s.onBus (.read off) (.read off :: rest)) = .next t ∧
      step t = .next { s with pending := rest, returned := s.returned ++ [v, v] }

/-- A 32-bit access at a multiple of 4 in 0x00 to 0x7C always completes in a next state; every other access is refused
(20_memory.md R63). -/
def Obligations.OnlyContractAccessesComplete : Prop :=
  (∀ (s : State) (off : Nat) (w : Word) (rest : List HostEvent), off % 4 = 0 ∧ off ≤ 0x7C →
    (∃ t, step (s.onBus (.read off) rest) = .next t) ∧ ∃ t, step (s.onBus (.write off w) rest) = .next t) ∧
  (∀ (s : State) (off : Nat) (w : Word) (rest : List HostEvent), off % 4 ≠ 0 ∨ 0x7F < off →
    (∃ r, step (s.onBus (.read off) rest) = .refused r) ∧ ∃ r, step (s.onBus (.write off w) rest) = .refused r) ∧
  ∀ (s : State) (bits off : Nat) (rest : List HostEvent),
    ∃ r, step (s.onBus (.otherWidth bits off) rest) = .refused r

/-- The reset input takes every element of the core to the reset value the spec states for it, and nothing else happens; of
SK, WIRING and REV, whose reset value the spec leaves unspecified, nothing is said (70_reset_and_hazards.md R340). That
reset keeps `draws` is the model's choice (notes/assumptions/1.md), and so is that it keeps the pending events that are left
and `returned` (notes/assumptions/3.md). -/
def Obligations.ResetValues : Prop :=
  ∀ (s : State) (rest : List HostEvent), ∃ (t : State) (sk : Vector Subkey 16) (rs : Vector Rotor 3) (ws : Vector Letter 26),
    step (s.onBus .reset rest) = .next t ∧
    t = { s with
      pending := rest, key := 0x0000000000000000, keyValid := false, sk := sk, data := 0x0000000000000000
      result := 0x0000000000000000, rotors := rs, wstage := ws, charOut := 0x00, err := 0x00, sticky := false } ∧
    (∀ r : RotorNo, rs[r].notch = 0 ∧ rs[r].pos = 0 ∧ rs[r].init = 0 ∧ rs[r].cfg = false) ∧
    (∀ k : Letter, ws[k] = 0) ∧
    busRead 0x04 t = 0x00000000

/-! ## The commands: what each does, and where it completes -/

/-- NOP succeeds in every state: ERR becomes 0x00, STICKY and all else are kept; with a non-zero field it fails with
RESERVED_FIELD; STATUS 0x410 becomes 0x10 (43_control.md R250). -/
def Obligations.NopClearsErr : Prop :=
  ∀ s : State,
    decodeWord 0x00000000 = .command .nop ∧
    exec .nop s = .next { s with err := 0x00 } ∧
    (∀ w : Word, fieldOPC w = 0x00 → w ≠ 0x00000000 → FailsWith 0x02 w s) ∧
    (statusWord s = 0x00000410 → statusWord { s with err := 0x00 } = 0x00000010)

/-- KEY_SCHEDULE in every state and for every KEY: SK becomes KeySchedule(KEY), KEY_VALID becomes 1, ERR 0x00, nothing else
changes; a non-zero field fails with RESERVED_FIELD; the worked example (41_des_engine.md R169). -/
def Obligations.KeyScheduleCachesSubkeys : Prop :=
  (∀ s : State,
    decodeWord 0x00000001 = .command .keySchedule ∧
    exec .keySchedule s = .next { s with sk := keySchedule fipsTables s.key, keyValid := true, err := 0x00 } ∧
    ∀ w : Word, fieldOPC w = 0x01 → w ≠ 0x00000001 → FailsWith 0x02 w s) ∧
  ∀ t : State, exec .keySchedule { State.reset with key := 0x133457799BBCDFF1 } = .next t →
    statusWord t = 0x00000001 ∧ t.sk[0] = 0x1B02EFFC7072 ∧ t.sk[15] = 0xCB3D8B0E17F5

/-- KEY_GENERATE in every state: KEY becomes the value drawn, whatever it is, SK its KeySchedule, KEY_VALID 1, ERR 0x00; a
non-zero field fails with RESERVED_FIELD (41_des_engine.md R170). That the draw is `Config.freeEntropy` of a counter, and
that the counter advances, is the model's choice (notes/assumptions/1.md); the statement holds for every value of it. -/
def Obligations.KeyGenerateLoadsTheDraw : Prop :=
  ∀ s : State,
    decodeWord 0x00000002 = .command .keyGenerate ∧
    exec .keyGenerate s = .next
      { s with
        key := Config.freeEntropy s.draws
        sk := keySchedule fipsTables (Config.freeEntropy s.draws)
        keyValid := true
        err := 0x00
        draws := s.draws + 1 } ∧
    ∀ w : Word, fieldOPC w = 0x02 → w ≠ 0x00000002 → FailsWith 0x02 w s

/-- ENCRYPT_BLOCK with KEY_VALID = 1 writes Encrypt(DATA, SK) to RESULT and 0x00 to ERR and nothing else; with
KEY_VALID = 0 it fails with NO_KEY; a non-zero field fails with RESERVED_FIELD; the worked example
(41_des_engine.md R171). -/
def Obligations.EncryptBlockWritesResult : Prop :=
  (∀ s : State,
    decodeWord 0x00000003 = .command .encryptBlock ∧
    (s.keyValid = true → exec .encryptBlock s = .next { s with result := encrypt fipsTables s.data s.sk, err := 0x00 }) ∧
    (s.keyValid = false → exec .encryptBlock s = .next { s with err := 0x04, sticky := true }) ∧
    ∀ w : Word, fieldOPC w = 0x03 → w ≠ 0x00000003 → FailsWith 0x02 w s) ∧
  encrypt fipsTables 0x0123456789ABCDEF (keySchedule fipsTables 0x133457799BBCDFF1) = 0x85E813540F0AB405

/-- DECRYPT_BLOCK with KEY_VALID = 1 writes Decrypt(DATA, SK) to RESULT and 0x00 to ERR and nothing else; with
KEY_VALID = 0 it fails with NO_KEY; a non-zero field fails with RESERVED_FIELD; decrypting a RESULT copied into DATA
returns the original DATA; the worked example (41_des_engine.md R172). -/
def Obligations.DecryptBlockWritesResult : Prop :=
  (∀ s : State,
    decodeWord 0x00000004 = .command .decryptBlock ∧
    (s.keyValid = true → exec .decryptBlock s = .next { s with result := decrypt fipsTables s.data s.sk, err := 0x00 }) ∧
    (s.keyValid = false → exec .decryptBlock s = .next { s with err := 0x04, sticky := true }) ∧
    (s.keyValid = true → ∃ t u, exec .encryptBlock s = .next t ∧ exec .decryptBlock { t with data := t.result } = .next u ∧
      u.result = s.data) ∧
    ∀ w : Word, fieldOPC w = 0x04 → w ≠ 0x00000004 → FailsWith 0x02 w s) ∧
  decrypt fipsTables 0x85E813540F0AB405 (keySchedule fipsTables 0x133457799BBCDFF1) = 0x0123456789ABCDEF

/-- ROTOR_STAGE_WIRING: for an index in [0,26) and a letter of either case, entry A of WSTAGE takes the letter's index, ERR
is 0x00 and nothing else changes; the errors in the order of the rule (42_rotor_engine.md R220). -/
def Obligations.StageWiringWritesOneEntry : Prop :=
  ∀ s : State,
    (∀ k v : Letter, ∃ W : Vector Letter 26,
      exec (.rotorStageWiring (BitVec.ofNat 8 k.val) (BitVec.ofNat 8 (0x41 + v.val))) s =
        .next { s with wstage := W, err := 0x00 } ∧
      exec (.rotorStageWiring (BitVec.ofNat 8 k.val) (BitVec.ofNat 8 (0x61 + v.val))) s =
        .next { s with wstage := W, err := 0x00 } ∧
      W[k] = v ∧ ∀ j : Letter, j ≠ k → W[j] = s.wstage[j]) ∧
    (∀ a b : Byte, 25 < a.toNat → exec (.rotorStageWiring a b) s = .next { s with err := 0x03, sticky := true }) ∧
    (∀ a b : Byte, a.toNat ≤ 25 → ¬ (0x41 ≤ b.toNat ∧ b.toNat ≤ 0x5A) → ¬ (0x61 ≤ b.toNat ∧ b.toNat ≤ 0x7A) →
      exec (.rotorStageWiring a b) s = .next { s with err := 0x06, sticky := true }) ∧
    (∀ w : Word, fieldOPC w = 0x10 → fieldC w = 0 → decodeWord w = .command (.rotorStageWiring (fieldA w) (fieldB w))) ∧
    ∀ w : Word, fieldOPC w = 0x10 → fieldC w ≠ 0 → FailsWith 0x02 w s

/-- ROTOR_CONFIGURE: for fields in range and a staged bijection, rotor A gets the staged wiring, its inverse, the notch, the
initial position (in INIT and POS) and CFG = 1, ERR is 0x00, and the other rotors, WSTAGE and all else are unchanged; a
field out of range fails with BAD_ARGUMENT, a staged table that is no bijection with BAD_WIRING
(42_rotor_engine.md R221). -/
def Obligations.ConfigureBuildsRotor : Prop :=
  ∀ s : State,
    (∀ (r : RotorNo) (n p : Letter), Function.Bijective (fun i : Letter => s.wstage[i]) →
      ∃ rev : Vector Letter 26,
        exec (.rotorConfigure (BitVec.ofNat 8 r.val) (BitVec.ofNat 8 n.val) (BitVec.ofNat 8 p.val)) s =
          .next { s with
            rotors := s.rotors.set r { wiring := s.wstage, rev := rev, notch := n, pos := p, init := p, cfg := true }
            err := 0x00 } ∧
        ∀ i : Letter, rev[s.wstage[i]] = i) ∧
    (∀ a b c : Byte, 2 < a.toNat ∨ 25 < b.toNat ∨ 25 < c.toNat →
      exec (.rotorConfigure a b c) s = .next { s with err := 0x03, sticky := true }) ∧
    (∀ a b c : Byte, a.toNat ≤ 2 → b.toNat ≤ 25 → c.toNat ≤ 25 → ¬ Function.Bijective (fun i : Letter => s.wstage[i]) →
      exec (.rotorConfigure a b c) s = .next { s with err := 0x06, sticky := true }) ∧
    ∀ w : Word, fieldOPC w = 0x11 → decodeWord w = .command (.rotorConfigure (fieldA w) (fieldB w) (fieldC w))

/-- ROTOR_SET_POSITIONS: for three positions in [0,26) each POS[r] takes its field, ERR is 0x00, and WIRING, REV, NOTCH,
INIT, CFG and all else are unchanged, configured or not; a field above 25 fails with BAD_ARGUMENT
(42_rotor_engine.md R222). -/
def Obligations.SetPositionsWritesPos : Prop :=
  ∀ s : State,
    (∀ p0 p1 p2 : Letter, ∃ rs : Vector Rotor 3,
      exec (.rotorSetPositions (BitVec.ofNat 8 p0.val) (BitVec.ofNat 8 p1.val) (BitVec.ofNat 8 p2.val)) s =
        .next { s with rotors := rs, err := 0x00 } ∧
      rs[0] = { s.rotors[0] with pos := p0 } ∧ rs[1] = { s.rotors[1] with pos := p1 } ∧
      rs[2] = { s.rotors[2] with pos := p2 }) ∧
    (∀ a b c : Byte, 25 < a.toNat ∨ 25 < b.toNat ∨ 25 < c.toNat →
      exec (.rotorSetPositions a b c) s = .next { s with err := 0x03, sticky := true }) ∧
    ∀ w : Word, fieldOPC w = 0x12 → decodeWord w = .command (.rotorSetPositions (fieldA w) (fieldB w) (fieldC w))

/-- ROTOR_RESET in every state: each POS[r] becomes INIT[r], ERR is 0x00, all else is unchanged; running it again changes
nothing more; a non-zero field fails with RESERVED_FIELD (42_rotor_engine.md R223). -/
def Obligations.RotorResetRestoresInit : Prop :=
  ∀ s : State,
    decodeWord 0x00000013 = .command .rotorReset ∧
    (∃ rs : Vector Rotor 3,
      exec .rotorReset s = .next { s with rotors := rs, err := 0x00 } ∧
      (∀ r : RotorNo, rs[r] = { s.rotors[r] with pos := s.rotors[r].init }) ∧
      exec .rotorReset { s with rotors := rs, err := 0x00 } = .next { s with rotors := rs, err := 0x00 }) ∧
    ∀ w : Word, fieldOPC w = 0x13 → w ≠ 0x00000013 → FailsWith 0x02 w s

/-- ROTOR_ENCODE_CHAR with all three rotors configured: a letter steps the rotors first, then passes forward, through the
reflector and backward at the new positions, into CHAR_OUT, and never comes out as itself; an OTHER byte goes to CHAR_OUT with no step; a REJECT byte
fails with BAD_CHAR. With some rotor unconfigured it fails with ROTOR_NOT_CONFIGURED whatever the byte
(42_rotor_engine.md R224, R213). -/
def Obligations.EncodeCharWritesCharOut : Prop :=
  ∀ s : State,
    ((∀ r : RotorNo, s.rotors[r].cfg = true) →
      (∀ x : Letter, ∃ (rs : Vector Rotor 3) (y : Letter),
        rs = stepAll s.rotors ∧
        y = bwd rs[0] (bwd rs[1] (bwd rs[2] (refl (fwd rs[2] (fwd rs[1] (fwd rs[0] x)))))) ∧
        exec (.rotorEncodeChar (BitVec.ofNat 8 (0x41 + x.val))) s =
          .next { s with rotors := rs, charOut := BitVec.ofNat 8 (0x41 + y.val), err := 0x00 } ∧
        ((∀ r : RotorNo, RotorOk s.rotors[r]) → y ≠ x)) ∧
      ∀ c : Byte, ¬ (0x41 ≤ c.toNat ∧ c.toNat ≤ 0x5A) →
        (isRejectByte c = false → exec (.rotorEncodeChar c) s = .next { s with charOut := c, err := 0x00 }) ∧
        (isRejectByte c = true → exec (.rotorEncodeChar c) s = .next { s with err := 0x07, sticky := true })) ∧
    ((∃ r : RotorNo, s.rotors[r].cfg = false) →
      ∀ c : Byte, exec (.rotorEncodeChar c) s = .next { s with err := 0x05, sticky := true }) ∧
    (∀ w : Word, fieldOPC w = 0x14 → fieldB w = 0 → fieldC w = 0 → decodeWord w = .command (.rotorEncodeChar (fieldA w))) ∧
    ∀ w : Word, fieldOPC w = 0x14 → fieldB w ≠ 0 ∨ fieldC w ≠ 0 → FailsWith 0x02 w s

/-- The class of each of the 256 bytes (42_rotor_engine.md R215). -/
def Obligations.CharClasses : Prop :=
  ∀ c : Byte,
    ((∃ x : Letter, charClass c = .letter x ∧ c.toNat = 0x41 + x.val) ↔ 0x41 ≤ c.toNat ∧ c.toNat ≤ 0x5A) ∧
    (charClass c = .reject ↔
      (0x61 ≤ c.toNat ∧ c.toNat ≤ 0x7A) ∨ c.toNat = 0xAA ∨ c.toNat = 0xB5 ∨ c.toNat = 0xBA ∨
        (0xC0 ≤ c.toNat ∧ c.toNat ≤ 0xD6) ∨ (0xD8 ≤ c.toNat ∧ c.toNat ≤ 0xF6) ∨ (0xF8 ≤ c.toNat ∧ c.toNat ≤ 0xFF)) ∧
    (charClass c = .other ↔
      ¬ (0x41 ≤ c.toNat ∧ c.toNat ≤ 0x5A) ∧ charClass c ≠ .reject)

/-! ## The Feistel engine -/

/-- `Perm(bv, T){i} = bv{T[i]}` for every table and every vector (40_permutation_tables.md R120). -/
def Obligations.PermTakesTableElements : Prop :=
  ∀ (m n : Nat) (bv : BitVec m) (T : Vector Nat n) (i : Nat), 1 ≤ i → i ≤ n →
    elemAt (perm bv T) i = elemAt bv (entry T i)

/-- The fixed tables meet the well-formedness of R121, and the facts their own rules state: E's groups repeat the
neighbouring bits, PC1 omits the parity elements, PC2 omits its eight elements, SHIFTS sum to 28, every S-box row is a
permutation of 0..15 (40_permutation_tables.md R121, R124, R126, R127, R128, R129 to R136). -/
def Obligations.FixedTablesMeetTheirRules : Prop :=
  tablesWf fipsTables = true ∧
  (∀ g : Fin 8, ∀ j : Fin 6, entry fipsTables.e (6 * g.val + j.val + 1) = (4 * g.val + j.val + 31) % 32 + 1) ∧
  (∀ x ∈ fipsTables.pc1.toList, x % 8 ≠ 0) ∧
  (∀ x ∈ fipsTables.pc2.toList, x ∉ [9, 18, 22, 25, 35, 38, 43, 54]) ∧
  fipsTables.shifts.toList.sum = 28 ∧
  ∀ (g : Fin 8) (r : Fin 4), (List.range 16).all (fun v => fipsTables.sbox[g][r].toList.contains v) = true

/-- Left rotation by elements, and the rotation by one as a concatenation (41_des_engine.md R156). -/
def Obligations.RotlMovesTowardElementOne : Prop :=
  (∀ (v : BitVec 28) (k i : Nat), 1 ≤ i → i ≤ 28 → elemAt (rotl v k) i = elemAt v ((i - 1 + k) % 28 + 1)) ∧
  ∀ v : BitVec 28, rotl v 1 = v.extractLsb' 0 27 ++ v.extractLsb' 27 1

/-- The key schedule for every table set and key: the two halves of the parity drop, rotated cumulatively by SHIFTS, and
each round's subkey the compression of `C ‖ D`; with the worked example (41_des_engine.md R155, R157). -/
def Obligations.KeyScheduleRounds : Prop :=
  (∀ (T : DesTables) (K : BitVec 64), ∃ C D : Nat → BitVec 28,
    (∀ i, 1 ≤ i → i ≤ 28 → elemAt (C 0) i = elemAt (perm K T.pc1) i) ∧
    (∀ i, 1 ≤ i → i ≤ 28 → elemAt (D 0) i = elemAt (perm K T.pc1) (28 + i)) ∧
    ∀ n : Fin 16,
      C (n.val + 1) = rotl (C n.val) T.shifts[n] ∧
      D (n.val + 1) = rotl (D n.val) T.shifts[n] ∧
      (keySchedule T K)[n] = perm (C (n.val + 1) ++ D (n.val + 1)) T.pc2) ∧
  (keySchedule fipsTables 0x133457799BBCDFF1)[0] = 0x1B02EFFC7072 ∧
  (keySchedule fipsTables 0x133457799BBCDFF1)[15] = 0xCB3D8B0E17F5

/-- Two keys that differ only in the parity elements 8, 16, …, 64 give the same subkeys and the same block results, and
KEY_SCHEDULE succeeds for every key (41_des_engine.md R158). -/
def Obligations.ParityElementsDoNotMatter : Prop :=
  (∀ K K' : BitVec 64, (∀ i, 1 ≤ i → i ≤ 64 → i % 8 ≠ 0 → elemAt K i = elemAt K' i) →
    keySchedule fipsTables K = keySchedule fipsTables K' ∧
    ∀ B : BitVec 64,
      encrypt fipsTables B (keySchedule fipsTables K) = encrypt fipsTables B (keySchedule fipsTables K') ∧
      decrypt fipsTables B (keySchedule fipsTables K) = decrypt fipsTables B (keySchedule fipsTables K')) ∧
  ∀ s : State, ∃ t, exec .keySchedule s = .next t ∧ t.err = 0

/-- Expansion and round-key XOR by elements, and the S-box bank: for each group the row is `2·b1 + b6`, the column the
middle four elements with b2 most significant, and the output the S-box value, most significant bit first
(41_des_engine.md R159, R160). -/
def Obligations.ExpansionAndSboxBank : Prop :=
  (∀ (T : DesTables) (R : BitVec 32) (Kn : Subkey) (i : Nat), 1 ≤ i → i ≤ 48 →
    elemAt (expandXor T R Kn) i = (elemAt R (entry T.e i) ^^ elemAt Kn i)) ∧
  ∀ (T : DesTables) (X : BitVec 48) (g : Fin 8) (row : Fin 4) (col : Fin 16),
    row.val = 2 * (elemAt X (6 * g.val + 1)).toNat + (elemAt X (6 * g.val + 6)).toNat →
    col.val = 8 * (elemAt X (6 * g.val + 2)).toNat + 4 * (elemAt X (6 * g.val + 3)).toNat +
      2 * (elemAt X (6 * g.val + 4)).toNat + (elemAt X (6 * g.val + 5)).toNat →
    ∀ k : Nat, 1 ≤ k → k ≤ 4 →
      elemAt (sboxBank T X) (4 * g.val + k) = elemAt (BitVec.ofNat 4 T.sbox[g][row][col]) k

/-- The round function is P after the S-box bank, and the worked example: E(R), X, Y and the round's value
(41_des_engine.md R161). -/
def Obligations.RoundFunctionExample : Prop :=
  (∀ (T : DesTables) (R : BitVec 32) (Kn : Subkey), feistelRound T R Kn = perm (sboxBank T (expandXor T R Kn)) T.p) ∧
  perm (0xF0AAF0AA : BitVec 32) fipsTables.e = 0x7A15557A1555 ∧
  expandXor fipsTables 0xF0AAF0AA 0x1B02EFFC7072 = 0x6117BA866527 ∧
  sboxBank fipsTables 0x6117BA866527 = 0x5C82B597 ∧
  feistelRound fipsTables 0xF0AAF0AA 0x1B02EFFC7072 = 0x234AA9BB

/-- The block engine in both directions: L0 and R0 from the initial permutation, sixteen rounds that swap the halves and
XOR the round function in, the final swap and the inverse permutation; encryption takes the subkeys in round order and
decryption in reverse order (41_des_engine.md R162, R163). -/
def Obligations.BlockEngineRounds : Prop :=
  ∀ (T : DesTables) (B : BitVec 64) (sks : Vector Subkey 16) (out : BitVec 64) (ks : Fin 16 → Subkey),
    (out = encrypt T B sks ∧ ∀ n : Fin 16, ks n = sks[n]) ∨
      (out = decrypt T B sks ∧ ∀ n : Fin 16, ks n = sks[15 - n.val]) →
    ∃ L R : Nat → BitVec 32,
      (∀ i, 1 ≤ i → i ≤ 32 → elemAt (L 0) i = elemAt (perm B T.ip) i) ∧
      (∀ i, 1 ≤ i → i ≤ 32 → elemAt (R 0) i = elemAt (perm B T.ip) (32 + i)) ∧
      (∀ n : Fin 16, L (n.val + 1) = R n.val ∧ R (n.val + 1) = L n.val ^^^ feistelRound T (R n.val) (ks n)) ∧
      out = perm (R 16 ++ L 16) T.fp

/-- Decryption with the reversed subkeys inverts encryption, and encryption inverts decryption, for every well-formed
table set, every block and any sixteen subkeys, so for those of every key (41_des_engine.md R164). -/
def Obligations.DecryptInvertsEncrypt : Prop :=
  ∀ T : DesTables, tablesWf T = true → ∀ (B : BitVec 64) (sks : Vector Subkey 16),
    decrypt T (encrypt T B sks) sks = B ∧ encrypt T (decrypt T B sks) sks = B

/-- Complementing block and key complements the ciphertext, for every well-formed table set (41_des_engine.md R165). -/
def Obligations.ComplementationProperty : Prop :=
  ∀ T : DesTables, tablesWf T = true → ∀ B K : BitVec 64,
    encrypt T (~~~B) (keySchedule T (~~~K)) = ~~~(encrypt T B (keySchedule T K))

/-! ## The rotor engine -/

/-- The unit maps and the reflector as arithmetic modulo 26 (42_rotor_engine.md R201, R202, R205). -/
def Obligations.UnitMapsAndReflector : Prop :=
  (∀ (R : Rotor) (x y : Letter), y.val = (x.val + R.pos.val) % 26 →
    (fwd R x).val = (R.wiring[y].val + 26 - R.pos.val) % 26 ∧ (bwd R x).val = (R.rev[y].val + 26 - R.pos.val) % 26) ∧
  ∀ x : Letter, (refl x).val = 25 - x.val ∧ refl (refl x) = x ∧ refl x ≠ x

/-- A configured unit's backward map inverts its forward map, both ways round, at every position, so the forward map is a
bijection (42_rotor_engine.md R203). -/
def Obligations.UnitMapsInvert : Prop :=
  ∀ R : Rotor, RotorOk R → R.cfg = true →
    (∀ x : Letter, bwd R (fwd R x) = x ∧ fwd R (bwd R x) = x) ∧ Function.Bijective (fwd R)

/-- One machine step: the rightmost position advances modulo 26; the middle's exactly when the rightmost's new position is
its notch; the leftmost's exactly when the middle advanced onto its own notch; nothing but positions changes
(42_rotor_engine.md R210, R211). -/
def Obligations.StepAllSingleCarry : Prop :=
  ∀ rs : Vector Rotor 3, ∃ (ts : Vector Rotor 3) (c0 c1 : Prop),
    ts = stepAll rs ∧
    (∀ r : RotorNo, ts[r] = { rs[r] with pos := ts[r].pos }) ∧
    (c0 ↔ (rs[0].pos.val + 1) % 26 = rs[0].notch.val) ∧
    (c1 ↔ (rs[1].pos.val + 1) % 26 = rs[1].notch.val) ∧
    ts[0].pos.val = (rs[0].pos.val + 1) % 26 ∧
    (c0 → ts[1].pos.val = (rs[1].pos.val + 1) % 26) ∧ (¬ c0 → ts[1].pos = rs[1].pos) ∧
    (c0 ∧ c1 → ts[2].pos.val = (rs[2].pos.val + 1) % 26) ∧ (¬ (c0 ∧ c1) → ts[2].pos = rs[2].pos)

/-- Stepping depends on how many letters were encoded, not on which: encoding a text without REJECT bytes completes and
leaves the rotors stepped once for each letter in it (42_rotor_engine.md R212). -/
def Obligations.SteppingCountsLetters : Prop :=
  ∀ (s : State) (text : List Byte), (∀ r : RotorNo, s.rotors[r].cfg = true) → (∀ c ∈ text, isRejectByte c = false) →
    ∃ (out : List Byte) (t : State), hostEncode text s = .ok (out, t) ∧
      t.rotors = stepAll^[text.countP fun c => decide (0x41 ≤ c.toNat ∧ c.toNat ≤ 0x5A)] s.rotors

/-- At fixed positions the signal path of three configured rotors is its own inverse and maps no letter to itself
(42_rotor_engine.md R214). -/
def Obligations.SignalPathSelfInverse : Prop :=
  ∀ rs : Vector Rotor 3, (∀ r : RotorNo, RotorOk rs[r] ∧ rs[r].cfg = true) →
    ∀ x : Letter, signalPath rs (signalPath rs x) = x ∧ signalPath rs x ≠ x

/-- Encoding a ciphertext through the machine reset to the same initial positions gives the message back: for every text
without REJECT bytes, from initial positions, encode, ROTOR_RESET, encode again (42_rotor_engine.md R214). -/
def Obligations.RotorStreamRoundTrip : Prop :=
  ∀ (s : State) (text : List Byte),
    (∀ r : RotorNo, RotorOk s.rotors[r] ∧ s.rotors[r].cfg = true ∧ s.rotors[r].pos = s.rotors[r].init) →
    (∀ c ∈ text, isRejectByte c = false) →
    ∃ (out : List Byte) (t u v : State),
      hostEncode text s = .ok (out, t) ∧ exec .rotorReset t = .next u ∧ hostEncode out u = .ok (text, v)

/-- From positions (0,0,0) with the rightmost notch at 4, the positions after letters 1 to 5, for every middle notch other
than 1; with the middle notch at 1 the leftmost rotates too (42_rotor_engine.md R225, 90_conflicts.md C1). -/
def Obligations.NotchPropagation : Prop :=
  ∀ rs : Vector Rotor 3, (∀ r : RotorNo, rs[r].pos = 0) → rs[0].notch = 4 →
    (rs[1].notch ≠ 1 →
      [1, 2, 3, 4, 5].map (fun n => (stepAll^[n] rs).toList.map Rotor.pos) =
        [[1, 0, 0], [2, 0, 0], [3, 0, 0], [4, 1, 0], [5, 1, 0]]) ∧
    (rs[1].notch = 1 →
      [1, 2, 3, 4, 5].map (fun n => (stepAll^[n] rs).toList.map Rotor.pos) =
        [[1, 0, 0], [2, 0, 0], [3, 0, 0], [4, 1, 1], [5, 1, 1]])

/-! ## Invariants and whole-machine rules -/

/-- The invariant holds right after reset (10_state.md R24, R29, R30, R39, R40). -/
def Obligations.ResetKeepsInvariant : Prop := CoreInv State.reset

/-- Every step keeps the invariant, whatever the host does: while KEY_VALID = 1 the subkey file is KeySchedule(KEY), every
configured rotor holds a bijection and its inverse, ERR stays in 0x00 to 0x07, and an error code in ERR has set STICKY
(10_state.md R24, R29, R30, R39, R40; 20_memory.md R75). -/
def Obligations.StepKeepsInvariant : Prop := ∀ s t : State, CoreInv s → step s = .next t → CoreInv t

/-- A host that keeps the interface contract never sees the core stop: from a safe state any number of steps completes in
a safe state (00_scope.md R16, 20_memory.md R63, R70). -/
def Obligations.ContractRunsNeverStop : Prop :=
  ∀ (n : Nat) (s : State), Safe s → ∃ t, Sys2Proof.core.run n s = .next t ∧ Safe t

/-- STICKY is set by every failed command and cleared by reset alone (10_state.md R40). -/
def Obligations.OnlyResetClearsSticky : Prop :=
  (∀ (w : Word) (s t : State), issueCommand w s = .next t → t.err ≠ 0 → t.sticky = true) ∧
  (∀ (s t : State) (e : HostEvent) (rest : List HostEvent),
    step (s.onBus e rest) = .next t → e ≠ .reset → s.sticky = true → t.sticky = true) ∧
  ∀ (s t : State) (rest : List HostEvent), step (s.onBus .reset rest) = .next t → t.sticky = false

/-- KEY_VALID becomes 1 only by the words KEY_SCHEDULE and KEY_GENERATE on CMD, and becomes 0 only by a write to KEY_HI or
KEY_LO, which always clears it, or by reset (10_state.md R24). -/
def Obligations.KeyValidChangesOnlyByKeyEvents : Prop :=
  (∀ (s t : State) (e : HostEvent) (rest : List HostEvent), step (s.onBus e rest) = .next t →
    (s.keyValid = false → t.keyValid = true → e = .write 0x08 0x00000001 ∨ e = .write 0x08 0x00000002) ∧
    (s.keyValid = true → t.keyValid = false → e = .reset ∨ ∃ v, e = .write 0x10 v ∨ e = .write 0x14 v)) ∧
  ∀ (s : State) (off : Nat) (v : Word) (rest : List HostEvent), off = 0x10 ∨ off = 0x14 →
    ∃ t, step (s.onBus (.write off v) rest) = .next t ∧ t.keyValid = false

/-- After a write to KEY_HI or KEY_LO, and any accesses that issue neither KEY_SCHEDULE nor KEY_GENERATE, a block command
fails with NO_KEY and leaves RESULT as it was (70_reset_and_hazards.md R351). -/
def Obligations.StaleSubkeysAreNeverUsed : Prop :=
  ∀ (s t : State) (off : Nat) (v : Word) (between : List HostEvent) (i : Instr),
    off = 0x10 ∨ off = 0x14 → i = .encryptBlock ∨ i = .decryptBlock →
    (∀ e ∈ between, e ≠ .write 0x08 0x00000001 ∧ e ≠ .write 0x08 0x00000002) →
    hostAccesses (.write off v :: between) s = .ok t →
    exec i t = .next { t with err := 0x04, sticky := true }

/-- Who may change what: each element of the core changes only by the events its rule names (10_state.md R23, R25, R26, R27,
R29 to R36, R39). -/
def Obligations.EachElementHasItsWriters : Prop :=
  ∀ (s t : State) (e : HostEvent) (rest : List HostEvent), step (s.onBus e rest) = .next t → e ≠ .reset →
    (t.key ≠ s.key → (∃ v, e = .write 0x10 v ∨ e = .write 0x14 v) ∨ e = .write 0x08 0x00000002) ∧
    (t.sk ≠ s.sk → e = .write 0x08 0x00000001 ∨ e = .write 0x08 0x00000002) ∧
    (t.data ≠ s.data → ∃ v, e = .write 0x18 v ∨ e = .write 0x1C v) ∧
    (t.result ≠ s.result → e = .write 0x08 0x00000003 ∨ e = .write 0x08 0x00000004) ∧
    (t.wstage ≠ s.wstage → ∃ w, e = .write 0x08 w ∧ fieldOPC w = 0x10) ∧
    (t.charOut ≠ s.charOut → ∃ w, e = .write 0x08 w ∧ fieldOPC w = 0x14) ∧
    (∀ r : RotorNo, t.rotors[r] ≠ { s.rotors[r] with pos := t.rotors[r].pos } →
      ∃ w, e = .write 0x08 w ∧ fieldOPC w = 0x11 ∧ (fieldA w).toNat = r.val ∧ t.rotors[r].cfg = true) ∧
    (∀ r : RotorNo, t.rotors[r].pos ≠ s.rotors[r].pos →
      ∃ w, e = .write 0x08 w ∧ 0x11 ≤ (fieldOPC w).toNat ∧ (fieldOPC w).toNat ≤ 0x14) ∧
    (∀ r : RotorNo, s.rotors[r].cfg = true → t.rotors[r].cfg = true) ∧
    (t.err ≠ s.err ∨ t.sticky ≠ s.sticky → ∃ w, e = .write 0x08 w)

/-- The two engines share no state. A command of the Feistel engine writes no rotor state, WSTAGE or CHAR_OUT, and reads
none: with any other values there it does the same. A rotor command writes neither KEY, KEY_VALID, SK, DATA nor RESULT (nor
the count of draws), and reads none: with any other values there it does the same (41_des_engine.md R173). -/
def Obligations.EnginesShareNoState : Prop :=
  (∀ (i : Instr) (s : State), i = .keySchedule ∨ i = .keyGenerate ∨ i = .encryptBlock ∨ i = .decryptBlock →
    ∃ t, exec i s = .next t ∧ t.rotors = s.rotors ∧ t.wstage = s.wstage ∧ t.charOut = s.charOut ∧
      ∀ (rs : Vector Rotor 3) (ws : Vector Letter 26) (c : Byte),
        exec i { s with rotors := rs, wstage := ws, charOut := c } = .next { t with rotors := rs, wstage := ws, charOut := c }) ∧
  ∀ (i : Instr) (s : State),
    (∃ a b, i = .rotorStageWiring a b) ∨ (∃ a b c, i = .rotorConfigure a b c) ∨
      (∃ a b c, i = .rotorSetPositions a b c) ∨ i = .rotorReset ∨ (∃ c, i = .rotorEncodeChar c) →
    ∃ t, exec i s = .next t ∧
      t.key = s.key ∧ t.keyValid = s.keyValid ∧ t.sk = s.sk ∧ t.data = s.data ∧ t.result = s.result ∧ t.draws = s.draws ∧
      ∀ (K : BitVec 64) (v : Bool) (sk : Vector Subkey 16) (D R : BitVec 64) (n : Nat),
        exec i { s with key := K, keyValid := v, sk := sk, data := D, result := R, draws := n } =
          .next { t with key := K, keyValid := v, sk := sk, data := D, result := R, draws := n }

/-- The values the spec leaves unspecified at reset cannot be observed: two states that agree but for SK while KEY_VALID = 0
and WIRING[r] and REV[r] while CFG[r] = 0 take the same step, to states that agree again, returning the same values to the
host (10_state.md R25, R29, R30; 93_implementation_defined.md I1). -/
def Obligations.UnspecifiedResetValuesUnobservable : Prop :=
  ∀ s t : State, AgreeObservably s t →
    (∃ s' t', step s = .next s' ∧ step t = .next t' ∧ AgreeObservably s' t') ∨
    ∃ r, step s = .refused r ∧ step t = .refused r

/-! ## The host's reference procedures (outside the core) -/

/-- Padding always adds 1 to 8 bytes, makes a multiple of 64 bits, and unpad takes it off again, for every byte-aligned
vector (45_host_software.md R272, R273). -/
def Obligations.UnpadInvertsPad : Prop :=
  ∀ bits : List Bool, bits.length % 8 = 0 →
    ∃ padded : List Bool, pad bits = .ok padded ∧ padded.length % 64 = 0 ∧
      bits.length + 8 ≤ padded.length ∧ padded.length ≤ bits.length + 64 ∧ unpad padded = .ok bits

/-- A key written in hexadecimal reads back as itself (45_host_software.md R274). -/
def Obligations.HexKeyRoundTrip : Prop := ∀ K : BitVec 64, keyFromHex (keyToHex K) = .ok K

/-- The hybrid round trip: with a key scheduled and the rotors configured, a text of LETTER and OTHER bytes encrypts, and
decrypting the result gives the text (45_host_software.md R280). -/
def Obligations.HybridRoundTrip : Prop :=
  ∀ (s : State) (text : List Byte), CoreInv s → s.keyValid = true → (∀ r : RotorNo, s.rotors[r].cfg = true) →
    (∀ c ∈ text, isRejectByte c = false) →
    ∃ (bits : List Bool) (t u : State), hybridEncrypt text s = .ok (bits, t) ∧ hybridDecrypt bits t = .ok (text, u)
end

