-- ==== Sys2Proof/Laws/Bits.lean ====
section
/-! SUPPORT. What building a bit vector from its elements gives back, element by element, and the two words of a 64-bit
quantity: the lemmas that the claims about permutations rest on. -/

namespace Sys2Proof.Machine

/-- One more element at the least significant end. -/
theorem natOfElems_concat (bs : List Bool) (b : Bool) : natOfElems (bs ++ [b]) = 2 * natOfElems bs + b.toNat := by
  simp [natOfElems]

/-- A list of `n` elements is a number below `2 ^ n` (00_scope.md R9). -/
theorem natOfElems_lt (bs : List Bool) : natOfElems bs < 2 ^ bs.length := by
  induction bs using List.reverseRecOn with
  | nil => simp [natOfElems]
  | append_singleton bs b ih =>
    rw [natOfElems_concat, List.length_append, List.length_singleton, Nat.pow_succ]
    have : b.toNat ≤ 1 := Bool.toNat_le b
    omega

/-- Bit `j` from the least significant end is the element `j` from the end of the list. -/
theorem testBit_natOfElems (bs : List Bool) (j : Nat) (h : j < bs.length) :
    (natOfElems bs).testBit j = bs[bs.length - 1 - j] := by
  induction bs using List.reverseRecOn generalizing j with
  | nil => simp at h
  | append_singleton bs b ih =>
    rw [natOfElems_concat]
    cases j with
    | zero => cases b <;> simp [Nat.testBit_zero, Nat.add_mod]
    | succ j =>
      have hj : j < bs.length := by simpa using h
      have hdiv : (2 * natOfElems bs + b.toNat) / 2 = natOfElems bs := by
        have : b.toNat ≤ 1 := Bool.toNat_le b
        omega
      rw [Nat.testBit_add_one, hdiv, ih j hj, List.getElem_append_left (by simp; omega)]
      congr 1
      simp
      omega

/-- Element `i` (from 0, most significant first) of the vector built from a list is element `i` of the list. -/
theorem getMsbD_ofElems {n : Nat} (bs : List Bool) (hn : bs.length = n) (i : Nat) (hi : i < n) :
    (ofElems n bs).getMsbD i = bs[i]'(by omega) := by
  subst hn
  rw [BitVec.getMsbD, ofElems, BitVec.getLsbD_ofNat, testBit_natOfElems _ _ (by omega)]
  have h1 : bs.length - 1 - (bs.length - 1 - i) = i := by omega
  have h2 : bs.length - 1 - i < bs.length := by omega
  simp [h1, h2, hi]

/-- Two vectors with the same elements are equal (00_scope.md R8). -/
theorem eq_of_elemAt_eq {n : Nat} {a b : BitVec n} (h : ∀ i, 1 ≤ i → i ≤ n → elemAt a i = elemAt b i) : a = b := by
  apply BitVec.eq_of_getMsbD_eq
  intro i hi
  simpa [elemAt] using h (i + 1) (by omega) (by omega)

/-- The elements of `a ‖ b` (00_scope.md R8). -/
theorem elemAt_append {m n : Nat} (a : BitVec m) (b : BitVec n) (i : Nat) (h : 1 ≤ i) :
    elemAt (a ++ b) i = if i ≤ m then elemAt a i else elemAt b (i - m) := by
  simp only [elemAt, BitVec.getMsbD_append]
  split <;> split <;> first | omega | rfl | (congr 1; omega)

/-- The HI word holds elements 1..32 (20_memory.md R66). -/
theorem elemAt_hiWord (v : BitVec 64) (i : Nat) (h : 1 ≤ i) (hi : i ≤ 32) : elemAt (hiWord v) i = elemAt v i := by
  simp only [elemAt, hiWord, BitVec.getMsbD_extractLsb']
  have h1 : i - 1 < 32 := by omega
  have h2 : 64 - (32 + 32 - (i - 1)) = i - 1 := by omega
  simp [h1, h2]

/-- The LO word holds elements 33..64 (20_memory.md R66). -/
theorem elemAt_loWord (v : BitVec 64) (i : Nat) (h : 1 ≤ i) (hi : i ≤ 32) : elemAt (loWord v) i = elemAt v (32 + i) := by
  simp only [elemAt, loWord, BitVec.getMsbD_extractLsb']
  have h1 : i - 1 < 32 := by omega
  have h2 : 64 - (0 + 32 - (i - 1)) = 32 + i - 1 := by omega
  have h3 : 0 + 32 - (i - 1) ≤ 64 := by omega
  rw [h2]
  simp only [h1, h3, decide_true, Bool.true_and]

/-- A bit as a word stands in bit 0 alone. -/
@[simp] theorem getLsbD_bitWord (b : Bool) (i : Nat) : (bitWord b).getLsbD i = (b && decide (i = 0)) := by
  cases b
  · simp [bitWord]
  · cases i <;> simp [bitWord, BitVec.getLsbD_ofNat, Nat.testBit_succ]

/-- A bit as a word stands in bit 0 alone. -/
@[simp] theorem getElem_bitWord (b : Bool) (i : Nat) (h : i < 32) : (bitWord b)[i] = (b && decide (i = 0)) := by
  rw [← BitVec.getLsbD_eq_getElem, getLsbD_bitWord]

/-- The words of a joined quantity (20_memory.md R66). -/
@[simp] theorem hiWord_joinWords (a b : Word) : hiWord (joinWords a b) = a := by
  simp only [hiWord, joinWords]
  exact BitVec.extractLsb'_append_eq_left

/-- The words of a joined quantity (20_memory.md R66). -/
@[simp] theorem loWord_joinWords (a b : Word) : loWord (joinWords a b) = b := by
  simp only [loWord, joinWords]
  exact BitVec.extractLsb'_append_eq_right

/-- A quantity is its two words joined (20_memory.md R66). -/
@[simp] theorem joinWords_words (v : BitVec 64) : joinWords (hiWord v) (loWord v) = v := by
  apply eq_of_elemAt_eq
  intro i h1 h2
  rw [joinWords, elemAt_append _ _ _ h1]
  split
  · exact elemAt_hiWord v i h1 ‹_›
  · rw [elemAt_loWord v _ (by omega) (by omega)]
    congr 1
    omega

end Sys2Proof.Machine
end

