-- ==== Sys2Proof/Laws/Operands.lean ====
section
/-! SUPPORT. What each operand form answers, for every byte (42_rotor_engine.md R215, R220 to R224). -/

namespace Sys2Proof.Machine

/-- An index argument is accepted exactly as its own value. -/
theorem indexArg_eq_some {b : Byte} {k : Letter} : indexArg b = some k ↔ b.toNat = k.val := by
  unfold indexArg
  split
  · simp [Fin.ext_iff]
  · simp; omega

/-- An index argument is turned away exactly when it exceeds 25. -/
theorem indexArg_eq_none {b : Byte} : indexArg b = none ↔ 25 < b.toNat := by
  unfold indexArg
  split <;> simp <;> omega

/-- A rotor argument is accepted exactly as its own value. -/
theorem rotorArg_eq_some {b : Byte} {r : RotorNo} : rotorArg b = some r ↔ b.toNat = r.val := by
  unfold rotorArg
  split
  · simp [Fin.ext_iff]
  · simp; omega

/-- A rotor argument is turned away exactly when it exceeds 2. -/
theorem rotorArg_eq_none {b : Byte} : rotorArg b = none ↔ 2 < b.toNat := by
  unfold rotorArg
  split <;> simp <;> omega

/-- A byte is the upper-case letter of index `x` exactly when it is 0x41 + x. -/
theorem upperIndex_eq_some {b : Byte} {x : Letter} : upperIndex b = some x ↔ b.toNat = 0x41 + x.val := by
  unfold upperIndex
  split
  · simp [Fin.ext_iff]; omega
  · simp; omega

/-- A byte is no upper-case letter exactly when it is outside 'A'..'Z'. -/
theorem upperIndex_eq_none {b : Byte} : upperIndex b = none ↔ ¬ (0x41 ≤ b.toNat ∧ b.toNat ≤ 0x5A) := by
  unfold upperIndex
  split <;> simp <;> omega

/-- A byte is the lower-case letter of index `x` exactly when it is 0x61 + x. -/
theorem lowerIndex_eq_some {b : Byte} {x : Letter} : lowerIndex b = some x ↔ b.toNat = 0x61 + x.val := by
  unfold lowerIndex
  split
  · simp [Fin.ext_iff]; omega
  · simp; omega

/-- A byte is no lower-case letter exactly when it is outside 'a'..'z'. -/
theorem lowerIndex_eq_none {b : Byte} : lowerIndex b = none ↔ ¬ (0x61 ≤ b.toNat ∧ b.toNat ≤ 0x7A) := by
  unfold lowerIndex
  split <;> simp <;> omega

/-- A wiring letter of index `v` is 0x41 + v or 0x61 + v. -/
theorem wiringArg_eq_some {b : Byte} {v : Letter} :
    wiringArg b = some v ↔ b.toNat = 0x41 + v.val ∨ b.toNat = 0x61 + v.val := by
  rw [wiringArg, Option.or_eq_some_iff, upperIndex_eq_some, upperIndex_eq_none, lowerIndex_eq_some]
  omega

/-- A byte is no wiring letter exactly when it is a letter of neither case. -/
theorem wiringArg_eq_none {b : Byte} : wiringArg b = none ↔ isLetterByte b = false := by
  rw [wiringArg, Option.or_eq_none_iff, upperIndex_eq_none, lowerIndex_eq_none, isLetterByte]
  simp only [Bool.or_eq_false_iff, decide_eq_false_iff_not]

/-- The machine's REJECT class is the static one. -/
theorem isReject_eq (b : Byte) : isReject b = isRejectByte b := by
  have hb := b.isLt
  rw [Bool.eq_iff_iff]
  simp only [isReject, isRejectByte, Bool.or_eq_true, Bool.and_eq_true, decide_eq_true_eq, beq_iff_eq]
  omega

/-- The class of an upper-case letter. -/
theorem charClass_eq_letter {b : Byte} {x : Letter} : charClass b = .letter x ↔ b.toNat = 0x41 + x.val := by
  rw [← upperIndex_eq_some, charClass]
  split <;> simp_all
  split <;> simp

/-- The class REJECT. -/
theorem charClass_eq_reject {b : Byte} : charClass b = .reject ↔ isRejectByte b = true := by
  have hb := b.isLt
  rw [← isReject_eq, charClass]
  split
  · rename_i x h
    rw [upperIndex_eq_some] at h
    have hx := x.isLt
    simp only [reduceCtorEq, false_iff, isReject, Bool.or_eq_true, Bool.and_eq_true, decide_eq_true_eq, beq_iff_eq]
    omega
  · split <;> simp_all

/-- The class OTHER: neither an upper-case letter nor REJECT. -/
theorem charClass_eq_other {b : Byte} : charClass b = .other ↔ upperIndex b = none ∧ isRejectByte b = false := by
  rw [← isReject_eq, charClass]
  split
  · simp_all
  · split <;> simp_all

/-- The byte of a letter (00_scope.md R13). -/
@[simp] theorem chr_toNat (x : Letter) : (chr x).toNat = 0x41 + x.val := by
  have := x.isLt
  simp [chr]
  omega

end Sys2Proof.Machine
end

