-- ==== Sys2Proof/Laws/Rotor.lean ====
section
/-! SUPPORT. The rotor engine's shared operations: which entries a table update changes, what the reverse loop computes,
and what stepping and setting positions leave alone. -/

namespace Sys2Proof.Machine

/-- The entry written is the value. -/
@[simp] theorem setEntry_same (v : Vector Letter 26) (k x : Letter) : (setEntry v k x)[k] = x := by
  simp [setEntry]

/-- Every other entry is kept. -/
theorem setEntry_other (v : Vector Letter 26) (k x j : Letter) (h : j ≠ k) : (setEntry v k x)[j] = v[j] := by
  simp only [setEntry, Fin.getElem_fin]
  exact Vector.getElem_set_ne _ _ fun e => h (Fin.ext e.symm)

/-- No value appears twice exactly when the table is injective, so a bijection (42_rotor_engine.md R221). -/
theorem isBijection_iff (w : Vector Letter 26) : isBijection w = true ↔ Function.Bijective (fun i : Letter => w[i]) := by
  rw [isBijection, decide_eq_true_eq, ← Finite.injective_iff_bijective, List.nodup_iff_injective_get]
  constructor
  · intro h a b hab
    have := @h ⟨a.val, by simp⟩ ⟨b.val, by simp⟩ (by simpa using hab)
    simpa [Fin.ext_iff] using this
  · intro h a b hab
    have ha := a.isLt
    have hb := b.isLt
    simp only [Vector.length_toList] at ha hb
    have := @h ⟨a.val, ha⟩ ⟨b.val, hb⟩ (by simpa using hab)
    simpa [Fin.ext_iff] using this

/-- The loop of R221 over any list of indices without repeats: entry `w[i]` holds `i` for each index of the list, and for
an index outside the list it holds what it held before. -/
theorem foldl_reverse (w : Vector Letter 26) (hw : Function.Injective (fun i : Letter => w[i])) (is : List Letter)
    (hnd : is.Nodup) (rev : Vector Letter 26) (i : Letter) :
    (is.foldl (fun v i => setEntry v w[i] i) rev)[w[i]] = if i ∈ is then i else rev[w[i]] := by
  induction is generalizing rev with
  | nil => simp
  | cons j js ih =>
    rw [List.foldl_cons, ih (List.nodup_cons.mp hnd).2]
    by_cases hij : i = j
    · subst hij
      rw [if_neg (List.nodup_cons.mp hnd).1, if_pos (by simp)]
      exact setEntry_same _ _ _
    · have hne : w[i] ≠ w[j] := fun h => hij (hw h)
      simp only [List.mem_cons, hij, false_or]
      split
      · rfl
      · exact setEntry_other _ _ _ _ hne

/-- The reverse table of a bijection is its inverse, whatever table the loop started from (42_rotor_engine.md R221). -/
theorem reverseInto_inverse (rev w : Vector Letter 26) (hw : Function.Bijective (fun i : Letter => w[i])) (i : Letter) :
    (reverseInto rev w)[w[i]] = i := by
  rw [reverseInto, foldl_reverse w hw.1 _ (List.nodup_finRange 26)]
  simp

/-- The reverse table of a bijection does not depend on the table it overwrites (42_rotor_engine.md R221). -/
theorem reverseInto_any (rev rev' w : Vector Letter 26) (hw : Function.Bijective (fun i : Letter => w[i])) :
    reverseInto rev w = reverseInto rev' w := by
  have key : ∀ k : Letter, (reverseInto rev w)[k] = (reverseInto rev' w)[k] := by
    intro k
    obtain ⟨i, rfl⟩ := hw.2 k
    simp only [reverseInto_inverse _ _ hw]
  apply Vector.ext
  intro k hk
  exact key ⟨k, hk⟩

/-- A rotor rotated in place: that rotor is `rotateUnit` of itself, the others are as they were. -/
theorem rotateAt_get (rs : Vector Rotor 3) (r q : RotorNo) :
    (rotateAt rs r)[q] = if q = r then rotateUnit rs[r] else rs[q] := by
  simp only [rotateAt, Fin.getElem_fin, Vector.getElem_set, Fin.ext_iff, eq_comm]

/-- The bank with one rotor replaced, read at any rotor. -/
theorem set_rotor_get (rs : Vector Rotor 3) (r q : RotorNo) (R : Rotor) :
    (rs.set r R)[q] = if q = r then R else rs[q] := by
  simp only [Fin.getElem_fin, Vector.getElem_set, Fin.ext_iff, eq_comm]

/-- Each rotor of `atPositions` is the rotor it was, at another position (42_rotor_engine.md R222). -/
theorem atPositions_get (rs : Vector Rotor 3) (p0 p1 p2 : Letter) (r : RotorNo) :
    (atPositions rs p0 p1 p2)[r] = rs[r].at (if r = 0 then p0 else if r = 1 then p1 else p2) := by
  fin_cases r <;> rfl

/-- Each rotor of `atInit` is the rotor it was, at its initial position (42_rotor_engine.md R223). -/
theorem atInit_get (rs : Vector Rotor 3) (r : RotorNo) : (atInit rs)[r] = rs[r].at rs[r].init := by
  simp [atInit]

/-- A rotor built from a staged bijection is a good one (42_rotor_engine.md R221). -/
theorem rotorOk_configured (R : Rotor) (w : Vector Letter 26) (n p : Letter) (hw : isBijection w = true) :
    RotorOk (configured R w n p) :=
  fun _ => ⟨(isBijection_iff w).mp hw, reverseInto_inverse _ _ ((isBijection_iff w).mp hw)⟩

/-- The three rotors after one machine step (42_rotor_engine.md R211). -/
theorem stepAll_get (rs : Vector Rotor 3) :
    (stepAll rs)[0] = rotateUnit rs[0] ∧
    (stepAll rs)[1] = (if carry (rotateUnit rs[0]) then rotateUnit rs[1] else rs[1]) ∧
    (stepAll rs)[2] =
      (if carry (rotateUnit rs[0]) && carry (rotateUnit rs[1]) then rotateUnit rs[2] else rs[2]) := by
  have e0 : (rotateAt rs 0)[0] = rotateUnit rs[0] := by simp [rotateAt]
  have e1 : (rotateAt rs 0)[1] = rs[1] := by simp [rotateAt]
  have e2 : (rotateAt rs 0)[2] = rs[2] := by simp [rotateAt]
  have f0 : ∀ v : Vector Rotor 3, (rotateAt v 1)[0] = v[0] := fun v => by simp [rotateAt]
  have f1 : ∀ v : Vector Rotor 3, (rotateAt v 1)[1] = rotateUnit v[1] := fun v => by simp [rotateAt]
  have f2 : ∀ v : Vector Rotor 3, (rotateAt v 1)[2] = v[2] := fun v => by simp [rotateAt]
  have h0 : ∀ v : Vector Rotor 3, (rotateAt v 2)[0] = v[0] := fun v => by simp [rotateAt]
  have h1 : ∀ v : Vector Rotor 3, (rotateAt v 2)[1] = v[1] := fun v => by simp [rotateAt]
  have h2 : ∀ v : Vector Rotor 3, (rotateAt v 2)[2] = rotateUnit v[2] := fun v => by simp [rotateAt]
  simp only [stepAll, f1, e0, e1]
  by_cases c0 : carry (rotateUnit rs[0]) = true <;> by_cases c1 : carry (rotateUnit rs[1]) = true <;>
    simp [c0, c1, e0, e1, e2, f0, f1, f2, h0, h1, h2]

end Sys2Proof.Machine
end

