-- ==== Sys2Proof/Laws/State.lean ====
section
/-! SUPPORT. One lemma per field of each named update of `State` and `Rotor`, so that no proof unfolds an update. -/

namespace Sys2Proof.Machine

/-! ### failed -/

@[simp] theorem State.failed_key (s : State) (e : ErrCode) : (s.failed e).key = s.key := rfl
@[simp] theorem State.failed_keyValid (s : State) (e : ErrCode) : (s.failed e).keyValid = s.keyValid := rfl
@[simp] theorem State.failed_sk (s : State) (e : ErrCode) : (s.failed e).sk = s.sk := rfl
@[simp] theorem State.failed_data (s : State) (e : ErrCode) : (s.failed e).data = s.data := rfl
@[simp] theorem State.failed_result (s : State) (e : ErrCode) : (s.failed e).result = s.result := rfl
@[simp] theorem State.failed_rotors (s : State) (e : ErrCode) : (s.failed e).rotors = s.rotors := rfl
@[simp] theorem State.failed_wstage (s : State) (e : ErrCode) : (s.failed e).wstage = s.wstage := rfl
@[simp] theorem State.failed_charOut (s : State) (e : ErrCode) : (s.failed e).charOut = s.charOut := rfl
@[simp] theorem State.failed_err (s : State) (e : ErrCode) : (s.failed e).err = e.code := rfl
@[simp] theorem State.failed_sticky (s : State) (e : ErrCode) : (s.failed e).sticky = true := rfl
@[simp] theorem State.failed_draws (s : State) (e : ErrCode) : (s.failed e).draws = s.draws := rfl
@[simp] theorem State.failed_pending (s : State) (e : ErrCode) : (s.failed e).pending = s.pending := rfl
@[simp] theorem State.failed_returned (s : State) (e : ErrCode) : (s.failed e).returned = s.returned := rfl

/-! ### succeeded -/

@[simp] theorem State.succeeded_key (s : State) : (s.succeeded).key = s.key := rfl
@[simp] theorem State.succeeded_keyValid (s : State) : (s.succeeded).keyValid = s.keyValid := rfl
@[simp] theorem State.succeeded_sk (s : State) : (s.succeeded).sk = s.sk := rfl
@[simp] theorem State.succeeded_data (s : State) : (s.succeeded).data = s.data := rfl
@[simp] theorem State.succeeded_result (s : State) : (s.succeeded).result = s.result := rfl
@[simp] theorem State.succeeded_rotors (s : State) : (s.succeeded).rotors = s.rotors := rfl
@[simp] theorem State.succeeded_wstage (s : State) : (s.succeeded).wstage = s.wstage := rfl
@[simp] theorem State.succeeded_charOut (s : State) : (s.succeeded).charOut = s.charOut := rfl
@[simp] theorem State.succeeded_err (s : State) : (s.succeeded).err = okCode := rfl
@[simp] theorem State.succeeded_sticky (s : State) : (s.succeeded).sticky = s.sticky := rfl
@[simp] theorem State.succeeded_draws (s : State) : (s.succeeded).draws = s.draws := rfl
@[simp] theorem State.succeeded_pending (s : State) : (s.succeeded).pending = s.pending := rfl
@[simp] theorem State.succeeded_returned (s : State) : (s.succeeded).returned = s.returned := rfl

/-! ### withScheduled -/

@[simp] theorem State.withScheduled_key (s : State) (k : BitVec 64) : (s.withScheduled k).key = k := rfl
@[simp] theorem State.withScheduled_keyValid (s : State) (k : BitVec 64) : (s.withScheduled k).keyValid = true := rfl
@[simp] theorem State.withScheduled_sk (s : State) (k : BitVec 64) : (s.withScheduled k).sk = keySchedule fipsTables k := rfl
@[simp] theorem State.withScheduled_data (s : State) (k : BitVec 64) : (s.withScheduled k).data = s.data := rfl
@[simp] theorem State.withScheduled_result (s : State) (k : BitVec 64) : (s.withScheduled k).result = s.result := rfl
@[simp] theorem State.withScheduled_rotors (s : State) (k : BitVec 64) : (s.withScheduled k).rotors = s.rotors := rfl
@[simp] theorem State.withScheduled_wstage (s : State) (k : BitVec 64) : (s.withScheduled k).wstage = s.wstage := rfl
@[simp] theorem State.withScheduled_charOut (s : State) (k : BitVec 64) : (s.withScheduled k).charOut = s.charOut := rfl
@[simp] theorem State.withScheduled_err (s : State) (k : BitVec 64) : (s.withScheduled k).err = s.err := rfl
@[simp] theorem State.withScheduled_sticky (s : State) (k : BitVec 64) : (s.withScheduled k).sticky = s.sticky := rfl
@[simp] theorem State.withScheduled_draws (s : State) (k : BitVec 64) : (s.withScheduled k).draws = s.draws := rfl
@[simp] theorem State.withScheduled_pending (s : State) (k : BitVec 64) : (s.withScheduled k).pending = s.pending := rfl
@[simp] theorem State.withScheduled_returned (s : State) (k : BitVec 64) : (s.withScheduled k).returned = s.returned := rfl

/-! ### afterDraw -/

@[simp] theorem State.afterDraw_key (s : State) : (s.afterDraw).key = s.key := rfl
@[simp] theorem State.afterDraw_keyValid (s : State) : (s.afterDraw).keyValid = s.keyValid := rfl
@[simp] theorem State.afterDraw_sk (s : State) : (s.afterDraw).sk = s.sk := rfl
@[simp] theorem State.afterDraw_data (s : State) : (s.afterDraw).data = s.data := rfl
@[simp] theorem State.afterDraw_result (s : State) : (s.afterDraw).result = s.result := rfl
@[simp] theorem State.afterDraw_rotors (s : State) : (s.afterDraw).rotors = s.rotors := rfl
@[simp] theorem State.afterDraw_wstage (s : State) : (s.afterDraw).wstage = s.wstage := rfl
@[simp] theorem State.afterDraw_charOut (s : State) : (s.afterDraw).charOut = s.charOut := rfl
@[simp] theorem State.afterDraw_err (s : State) : (s.afterDraw).err = s.err := rfl
@[simp] theorem State.afterDraw_sticky (s : State) : (s.afterDraw).sticky = s.sticky := rfl
@[simp] theorem State.afterDraw_draws (s : State) : (s.afterDraw).draws = s.draws + 1 := rfl
@[simp] theorem State.afterDraw_pending (s : State) : (s.afterDraw).pending = s.pending := rfl
@[simp] theorem State.afterDraw_returned (s : State) : (s.afterDraw).returned = s.returned := rfl

/-! ### returning -/

@[simp] theorem State.returning_key (s : State) (v : Word) : (s.returning v).key = s.key := rfl
@[simp] theorem State.returning_keyValid (s : State) (v : Word) : (s.returning v).keyValid = s.keyValid := rfl
@[simp] theorem State.returning_sk (s : State) (v : Word) : (s.returning v).sk = s.sk := rfl
@[simp] theorem State.returning_data (s : State) (v : Word) : (s.returning v).data = s.data := rfl
@[simp] theorem State.returning_result (s : State) (v : Word) : (s.returning v).result = s.result := rfl
@[simp] theorem State.returning_rotors (s : State) (v : Word) : (s.returning v).rotors = s.rotors := rfl
@[simp] theorem State.returning_wstage (s : State) (v : Word) : (s.returning v).wstage = s.wstage := rfl
@[simp] theorem State.returning_charOut (s : State) (v : Word) : (s.returning v).charOut = s.charOut := rfl
@[simp] theorem State.returning_err (s : State) (v : Word) : (s.returning v).err = s.err := rfl
@[simp] theorem State.returning_sticky (s : State) (v : Word) : (s.returning v).sticky = s.sticky := rfl
@[simp] theorem State.returning_draws (s : State) (v : Word) : (s.returning v).draws = s.draws := rfl
@[simp] theorem State.returning_pending (s : State) (v : Word) : (s.returning v).pending = s.pending := rfl
@[simp] theorem State.returning_returned (s : State) (v : Word) : (s.returning v).returned = s.returned ++ [v] := rfl

/-! ### onBus -/

@[simp] theorem State.onBus_key (s : State) (e : HostEvent) (rest : List HostEvent) : (s.onBus e rest).key = s.key := rfl
@[simp] theorem State.onBus_keyValid (s : State) (e : HostEvent) (rest : List HostEvent) : (s.onBus e rest).keyValid = s.keyValid := rfl
@[simp] theorem State.onBus_sk (s : State) (e : HostEvent) (rest : List HostEvent) : (s.onBus e rest).sk = s.sk := rfl
@[simp] theorem State.onBus_data (s : State) (e : HostEvent) (rest : List HostEvent) : (s.onBus e rest).data = s.data := rfl
@[simp] theorem State.onBus_result (s : State) (e : HostEvent) (rest : List HostEvent) : (s.onBus e rest).result = s.result := rfl
@[simp] theorem State.onBus_rotors (s : State) (e : HostEvent) (rest : List HostEvent) : (s.onBus e rest).rotors = s.rotors := rfl
@[simp] theorem State.onBus_wstage (s : State) (e : HostEvent) (rest : List HostEvent) : (s.onBus e rest).wstage = s.wstage := rfl
@[simp] theorem State.onBus_charOut (s : State) (e : HostEvent) (rest : List HostEvent) : (s.onBus e rest).charOut = s.charOut := rfl
@[simp] theorem State.onBus_err (s : State) (e : HostEvent) (rest : List HostEvent) : (s.onBus e rest).err = s.err := rfl
@[simp] theorem State.onBus_sticky (s : State) (e : HostEvent) (rest : List HostEvent) : (s.onBus e rest).sticky = s.sticky := rfl
@[simp] theorem State.onBus_draws (s : State) (e : HostEvent) (rest : List HostEvent) : (s.onBus e rest).draws = s.draws := rfl
@[simp] theorem State.onBus_pending (s : State) (e : HostEvent) (rest : List HostEvent) : (s.onBus e rest).pending = e :: rest := rfl
@[simp] theorem State.onBus_returned (s : State) (e : HostEvent) (rest : List HostEvent) : (s.onBus e rest).returned = s.returned := rfl

/-! ### applyReset -/

@[simp] theorem applyReset_key (s : State) : (applyReset s).key = State.reset.key := rfl
@[simp] theorem applyReset_keyValid (s : State) : (applyReset s).keyValid = State.reset.keyValid := rfl
@[simp] theorem applyReset_sk (s : State) : (applyReset s).sk = State.reset.sk := rfl
@[simp] theorem applyReset_data (s : State) : (applyReset s).data = State.reset.data := rfl
@[simp] theorem applyReset_result (s : State) : (applyReset s).result = State.reset.result := rfl
@[simp] theorem applyReset_rotors (s : State) : (applyReset s).rotors = State.reset.rotors := rfl
@[simp] theorem applyReset_wstage (s : State) : (applyReset s).wstage = State.reset.wstage := rfl
@[simp] theorem applyReset_charOut (s : State) : (applyReset s).charOut = State.reset.charOut := rfl
@[simp] theorem applyReset_err (s : State) : (applyReset s).err = State.reset.err := rfl
@[simp] theorem applyReset_sticky (s : State) : (applyReset s).sticky = State.reset.sticky := rfl
@[simp] theorem applyReset_draws (s : State) : (applyReset s).draws = s.draws := rfl
@[simp] theorem applyReset_pending (s : State) : (applyReset s).pending = s.pending := rfl
@[simp] theorem applyReset_returned (s : State) : (applyReset s).returned = s.returned := rfl

/-! ### Rotor updates -/

@[simp] theorem Rotor.at_wiring (R : Rotor) (p : Letter) : (R.at p).wiring = R.wiring := rfl
@[simp] theorem Rotor.at_rev (R : Rotor) (p : Letter) : (R.at p).rev = R.rev := rfl
@[simp] theorem Rotor.at_notch (R : Rotor) (p : Letter) : (R.at p).notch = R.notch := rfl
@[simp] theorem Rotor.at_pos (R : Rotor) (p : Letter) : (R.at p).pos = p := rfl
@[simp] theorem Rotor.at_init (R : Rotor) (p : Letter) : (R.at p).init = R.init := rfl
@[simp] theorem Rotor.at_cfg (R : Rotor) (p : Letter) : (R.at p).cfg = R.cfg := rfl
@[simp] theorem rotateUnit_wiring (R : Rotor) : (rotateUnit R).wiring = R.wiring := rfl
@[simp] theorem rotateUnit_rev (R : Rotor) : (rotateUnit R).rev = R.rev := rfl
@[simp] theorem rotateUnit_notch (R : Rotor) : (rotateUnit R).notch = R.notch := rfl
@[simp] theorem rotateUnit_pos (R : Rotor) : (rotateUnit R).pos = R.pos + 1 := rfl
@[simp] theorem rotateUnit_init (R : Rotor) : (rotateUnit R).init = R.init := rfl
@[simp] theorem rotateUnit_cfg (R : Rotor) : (rotateUnit R).cfg = R.cfg := rfl
@[simp] theorem configured_wiring (R : Rotor) (w : Vector Letter 26) (n p : Letter) : (configured R w n p).wiring = w := rfl
@[simp] theorem configured_rev (R : Rotor) (w : Vector Letter 26) (n p : Letter) : (configured R w n p).rev = reverseInto R.rev w := rfl
@[simp] theorem configured_notch (R : Rotor) (w : Vector Letter 26) (n p : Letter) : (configured R w n p).notch = n := rfl
@[simp] theorem configured_pos (R : Rotor) (w : Vector Letter 26) (n p : Letter) : (configured R w n p).pos = p := rfl
@[simp] theorem configured_init (R : Rotor) (w : Vector Letter 26) (n p : Letter) : (configured R w n p).init = p := rfl
@[simp] theorem configured_cfg (R : Rotor) (w : Vector Letter 26) (n p : Letter) : (configured R w n p).cfg = true := rfl

end Sys2Proof.Machine
end

