-- ==== Sys2Proof/Laws/Commands.lean ====
section
/-! SUPPORT. What a command, a bus event and a step can do, said once. `Ran i s t` lists every way the command `i` can take
the state `s` to `t`; the claims about all commands go through it, and unfold no meaning. -/

namespace Sys2Proof.Machine

/-- A failed command answers the failed state. -/
@[simp] theorem fail_eq (e : ErrCode) (s : State) : fail e s = .next (s.failed e) := rfl

/-- A successful command answers the state of its writes with ERR at 0. -/
@[simp] theorem succeed_eq (s : State) : succeed s = .next s.succeeded := rfl

/-- The codes of failure are 1 to 7 (60_exceptions.md R301). -/
theorem code_range (e : ErrCode) : 1 ≤ e.code.toNat ∧ e.code.toNat ≤ 7 := by cases e <;> decide

/-- A code of failure is not OK (60_exceptions.md R301). -/
theorem code_ne_ok (e : ErrCode) : e.code ≠ okCode := by cases e <;> decide

/-- Everything a command can do: fail with a code, or make its own writes and succeed. -/
inductive Ran : Instr → State → State → Prop
  | nop (s) : Ran .nop s s.succeeded
  | keySchedule (s) : Ran .keySchedule s (s.withScheduled s.key).succeeded
  | keyGenerate (s) : Ran .keyGenerate s (s.afterDraw.withScheduled (drawn s)).succeeded
  | encryptBlock (s : State) (h : s.keyValid = true) :
      Ran .encryptBlock s (State.succeeded { s with result := encrypt fipsTables s.data s.sk })
  | decryptBlock (s : State) (h : s.keyValid = true) :
      Ran .decryptBlock s (State.succeeded { s with result := decrypt fipsTables s.data s.sk })
  | noKey (i s) (hi : i = .encryptBlock ∨ i = .decryptBlock) (h : s.keyValid = false) : Ran i s (s.failed .noKey)
  | stage (s : State) (a b : Byte) (k v : Letter) (ha : indexArg a = some k) (hb : wiringArg b = some v) :
      Ran (.rotorStageWiring a b) s (State.succeeded { s with wstage := setEntry s.wstage k v })
  | stageBadIndex (s) (a b : Byte) (ha : indexArg a = none) : Ran (.rotorStageWiring a b) s (s.failed .badArgument)
  | stageBadLetter (s) (a b : Byte) (k : Letter) (ha : indexArg a = some k) (hb : wiringArg b = none) :
      Ran (.rotorStageWiring a b) s (s.failed .badWiring)
  | configure (s : State) (a b c : Byte) (r : RotorNo) (n p : Letter) (ha : rotorArg a = some r)
      (hb : indexArg b = some n) (hc : indexArg c = some p) (hw : isBijection s.wstage = true) :
      Ran (.rotorConfigure a b c) s
        (State.succeeded { s with rotors := s.rotors.set r (configured s.rotors[r] s.wstage n p) })
  | configureBadArgument (s) (a b c : Byte) (h : rotorArg a = none ∨ indexArg b = none ∨ indexArg c = none) :
      Ran (.rotorConfigure a b c) s (s.failed .badArgument)
  | configureBadWiring (s : State) (a b c : Byte) (r : RotorNo) (n p : Letter) (ha : rotorArg a = some r)
      (hb : indexArg b = some n) (hc : indexArg c = some p) (hw : isBijection s.wstage = false) :
      Ran (.rotorConfigure a b c) s (s.failed .badWiring)
  | setPositions (s : State) (a b c : Byte) (p0 p1 p2 : Letter) (ha : indexArg a = some p0) (hb : indexArg b = some p1)
      (hc : indexArg c = some p2) :
      Ran (.rotorSetPositions a b c) s (State.succeeded { s with rotors := atPositions s.rotors p0 p1 p2 })
  | setPositionsBad (s) (a b c : Byte) (h : indexArg a = none ∨ indexArg b = none ∨ indexArg c = none) :
      Ran (.rotorSetPositions a b c) s (s.failed .badArgument)
  | rotorReset (s : State) : Ran .rotorReset s (State.succeeded { s with rotors := atInit s.rotors })
  | encodeUnconfigured (s) (c : Byte) (h : allConfigured s = false) :
      Ran (.rotorEncodeChar c) s (s.failed .rotorNotConfigured)
  | encodeReject (s) (c : Byte) (h : allConfigured s = true) (hc : charClass c = .reject) :
      Ran (.rotorEncodeChar c) s (s.failed .badChar)
  | encodeOther (s : State) (c : Byte) (h : allConfigured s = true) (hc : charClass c = .other) :
      Ran (.rotorEncodeChar c) s (State.succeeded { s with charOut := c })
  | encodeLetter (s : State) (c : Byte) (x : Letter) (h : allConfigured s = true) (hc : charClass c = .letter x) :
      Ran (.rotorEncodeChar c) s
        (State.succeeded { s with rotors := stepAll s.rotors, charOut := chr (signalPath (stepAll s.rotors) x) })

/-- Every command completes, in one of the ways of `Ran`. -/
theorem exec_ran (i : Instr) (s : State) : ∃ t, exec i s = .next t ∧ Ran i s t := by
  cases i with
  | nop => exact ⟨_, rfl, .nop s⟩
  | keySchedule => exact ⟨_, rfl, .keySchedule s⟩
  | keyGenerate => exact ⟨_, rfl, .keyGenerate s⟩
  | encryptBlock =>
    by_cases h : s.keyValid = true
    · exact ⟨_, if_pos h, .encryptBlock s h⟩
    · exact ⟨_, if_neg h, .noKey _ s (.inl rfl) (by simpa using h)⟩
  | decryptBlock =>
    by_cases h : s.keyValid = true
    · exact ⟨_, if_pos h, .decryptBlock s h⟩
    · exact ⟨_, if_neg h, .noKey _ s (.inr rfl) (by simpa using h)⟩
  | rotorStageWiring a b =>
    simp only [exec, execRotorStageWiring]
    cases ha : indexArg a with
    | none => exact ⟨_, rfl, .stageBadIndex s a b ha⟩
    | some k =>
      cases hb : wiringArg b with
      | none => exact ⟨_, rfl, .stageBadLetter s a b k ha hb⟩
      | some v => exact ⟨_, rfl, .stage s a b k v ha hb⟩
  | rotorConfigure a b c =>
    simp only [exec, execRotorConfigure]
    cases ha : rotorArg a with
    | none => exact ⟨_, rfl, .configureBadArgument s a b c (.inl ha)⟩
    | some r =>
      cases hb : indexArg b with
      | none => exact ⟨_, rfl, .configureBadArgument s a b c (.inr (.inl hb))⟩
      | some n =>
        cases hc : indexArg c with
        | none => exact ⟨_, rfl, .configureBadArgument s a b c (.inr (.inr hc))⟩
        | some p =>
          cases hw : isBijection s.wstage with
          | true => exact ⟨_, rfl, .configure s a b c r n p ha hb hc hw⟩
          | false => exact ⟨_, rfl, .configureBadWiring s a b c r n p ha hb hc hw⟩
  | rotorSetPositions a b c =>
    simp only [exec, execRotorSetPositions]
    cases ha : indexArg a with
    | none => exact ⟨_, rfl, .setPositionsBad s a b c (.inl ha)⟩
    | some p0 =>
      cases hb : indexArg b with
      | none => exact ⟨_, rfl, .setPositionsBad s a b c (.inr (.inl hb))⟩
      | some p1 =>
        cases hc : indexArg c with
        | none => exact ⟨_, rfl, .setPositionsBad s a b c (.inr (.inr hc))⟩
        | some p2 => exact ⟨_, rfl, .setPositions s a b c p0 p1 p2 ha hb hc⟩
  | rotorReset => exact ⟨_, rfl, .rotorReset s⟩
  | rotorEncodeChar c =>
    simp only [exec, execRotorEncodeChar]
    cases h : allConfigured s with
    | false => exact ⟨_, rfl, .encodeUnconfigured s c h⟩
    | true =>
      cases hc : charClass c with
      | reject => exact ⟨_, rfl, .encodeReject s c h hc⟩
      | other => exact ⟨_, rfl, .encodeOther s c h hc⟩
      | letter x => exact ⟨_, rfl, .encodeLetter s c x h hc⟩

/-- If a command answers a next state, it is one that `Ran` lists. -/
theorem ran_of_exec {i : Instr} {s t : State} (h : exec i s = .next t) : Ran i s t := by
  obtain ⟨t', h', hr⟩ := exec_ran i s
  rw [h] at h'
  cases h'
  exact hr

/-- A word on CMD either runs the command it decodes to, or fails with RESERVED_FIELD or ILLEGAL_OPCODE. -/
theorem issueCommand_cases {w : Word} {s t : State} (h : issueCommand w s = .next t) :
    (∃ i, decodeWord w = .command i ∧ Ran i s t) ∨
    (decodeWord w = .reservedField ∧ t = s.failed .reservedField) ∨
    (decodeWord w = .illegalOpcode ∧ t = s.failed .illegalOpcode) := by
  unfold issueCommand at h
  split at h
  · exact .inl ⟨_, by assumption, ran_of_exec h⟩
  · exact .inr (.inl ⟨by assumption, by simpa using h.symm⟩)
  · exact .inr (.inr ⟨by assumption, by simpa using h.symm⟩)

/-- A defined offset is a multiple of 4 in 0x00 to 0x7C (20_memory.md R63). -/
theorem accessRefusal_eq_none {off : Nat} : accessRefusal off = none ↔ off % 4 = 0 ∧ off ≤ 0x7C := by
  unfold accessRefusal
  split
  · simp; omega
  · split <;> simp <;> omega

/-- Any other offset is refused (20_memory.md R63). -/
theorem accessRefusal_eq_some {off : Nat} : (∃ r, accessRefusal off = some r) ↔ off % 4 ≠ 0 ∨ 0x7F < off := by
  rw [← Option.isSome_iff_exists, ← not_iff_not, Option.not_isSome_iff_eq_none, accessRefusal_eq_none]
  omega

/-- CMD stands at 0x08 alone (20_memory.md R60). -/
theorem windowReg_eq_cmd {off : Nat} : windowReg off = .cmd ↔ off = 0x08 := by
  unfold windowReg
  split <;> simp_all

/-- KEY_HI stands at 0x10 alone (20_memory.md R60). -/
theorem windowReg_eq_keyHi {off : Nat} : windowReg off = .keyHi ↔ off = 0x10 := by
  unfold windowReg
  split <;> simp_all

/-- KEY_LO stands at 0x14 alone (20_memory.md R60). -/
theorem windowReg_eq_keyLo {off : Nat} : windowReg off = .keyLo ↔ off = 0x14 := by
  unfold windowReg
  split <;> simp_all

/-- DATA_HI stands at 0x18 alone (20_memory.md R60). -/
theorem windowReg_eq_dataHi {off : Nat} : windowReg off = .dataHi ↔ off = 0x18 := by
  unfold windowReg
  split <;> simp_all

/-- DATA_LO stands at 0x1C alone (20_memory.md R60). -/
theorem windowReg_eq_dataLo {off : Nat} : windowReg off = .dataLo ↔ off = 0x1C := by
  unfold windowReg
  split <;> simp_all

/-- The step on a state with a pending event serves that event. -/
theorem step_onBus (s : State) (e : HostEvent) (rest : List HostEvent) :
    step (s.onBus e rest) = serve e { s with pending := rest } := rfl

/-- A run goes on from the state its first step reaches. -/
theorem run_succ_of_step {n : Nat} {s t : State} (h : step s = .next t) :
    Sys2Proof.core.run (n + 1) s = Sys2Proof.core.run n t := by
  show Host.Core.run Sys2Proof.core (Nat.succ n) s = _
  simp only [Host.Core.run]
  have : Sys2Proof.core.step s = .next t := h
  rw [this]

/-- A bus write to any register but CMD only stores (43_control.md R252). -/
theorem busWrite_of_ne_cmd {off : Nat} (v : Word) (s : State) (h : windowReg off ≠ .cmd) :
    busWrite off v s = .next (writeReg (windowReg off) v s) := by
  unfold busWrite
  split <;> simp_all

/-- Everything one host event can do when it completes: return a value, run a command word, store to a register, or
reset. -/
theorem serve_cases {e : HostEvent} {s t : State} (h : serve e s = .next t) :
    (∃ off, e = .read off ∧ accessRefusal off = none ∧ t = s.returning (busRead off s)) ∨
    (∃ off w, e = .write off w ∧ accessRefusal off = none ∧ windowReg off = .cmd ∧ issueCommand w s = .next t) ∨
    (∃ off w, e = .write off w ∧ accessRefusal off = none ∧ windowReg off ≠ .cmd ∧ t = writeReg (windowReg off) w s) ∨
    (e = .reset ∧ t = applyReset s) := by
  cases e with
  | read off =>
    simp only [serve] at h
    split at h
    · cases h
    · exact .inl ⟨off, rfl, by assumption, by simpa using h.symm⟩
  | write off w =>
    simp only [serve] at h
    split at h
    · cases h
    · by_cases hc : windowReg off = .cmd
      · rw [busWrite, hc] at h
        exact .inr (.inl ⟨off, w, rfl, by assumption, hc, h⟩)
      · rw [busWrite_of_ne_cmd _ _ hc] at h
        exact .inr (.inr (.inl ⟨off, w, rfl, by assumption, hc, by simpa using h.symm⟩))
  | otherWidth bits off => cases h
  | reset => exact .inr (.inr (.inr ⟨rfl, by simpa [serve] using h.symm⟩))

end Sys2Proof.Machine
end

