-- ==== Sys2Proof/Laws/Decode.lean ====
section
/-! SUPPORT. The fields of a command word, and what the opcode map answers for each OPC. -/

namespace Sys2Proof

/-- The OPC of a word made of four fields (30_encoding.md R91). -/
@[simp] theorem fieldOPC_commandWord (opc a b c : Byte) : fieldOPC (commandWord opc a b c) = opc := by
  simp only [fieldOPC, commandWord]
  exact BitVec.extractLsb'_append_eq_right

/-- A of a word made of four fields (30_encoding.md R91). -/
@[simp] theorem fieldA_commandWord (opc a b c : Byte) : fieldA (commandWord opc a b c) = a := by
  apply BitVec.eq_of_getLsbD_eq
  intro i hi
  simp only [fieldA, commandWord, BitVec.getLsbD_extractLsb', BitVec.getLsbD_append]
  have h0 : ¬ 8 + i < 8 := by omega
  have h2 : 8 + i - 8 = i := by omega
  simp only [hi, h0, h2, decide_true, Bool.true_and, ite_true, ite_false]

/-- B of a word made of four fields (30_encoding.md R91). -/
@[simp] theorem fieldB_commandWord (opc a b c : Byte) : fieldB (commandWord opc a b c) = b := by
  apply BitVec.eq_of_getLsbD_eq
  intro i hi
  simp only [fieldB, commandWord, BitVec.getLsbD_extractLsb', BitVec.getLsbD_append]
  have h0 : ¬ 16 + i < 8 := by omega
  have h1 : ¬ 16 + i - 8 < 8 := by omega
  have h3 : 16 + i - 8 - 8 = i := by omega
  simp only [hi, h0, h1, h3, decide_true, Bool.true_and, ite_true, ite_false]

/-- C of a word made of four fields (30_encoding.md R91). -/
@[simp] theorem fieldC_commandWord (opc a b c : Byte) : fieldC (commandWord opc a b c) = c := by
  apply BitVec.eq_of_getLsbD_eq
  intro i hi
  simp only [fieldC, commandWord, BitVec.getLsbD_extractLsb', BitVec.getLsbD_append]
  have h0 : ¬ 24 + i < 8 := by omega
  have h1 : ¬ 24 + i - 8 < 8 := by omega
  have h2 : ¬ 24 + i - 8 - 8 < 8 := by omega
  have h3 : 24 + i - 8 - 8 - 8 = i := by omega
  simp only [hi, h0, h1, h2, h3, decide_true, Bool.true_and, ite_false]

/-- A word is the word of its four fields (30_encoding.md R91). -/
@[simp] theorem commandWord_fields (w : Word) : commandWord (fieldOPC w) (fieldA w) (fieldB w) (fieldC w) = w := by
  apply BitVec.eq_of_getLsbD_eq
  intro i hi
  simp only [commandWord, fieldOPC, fieldA, fieldB, fieldC, BitVec.getLsbD_append, BitVec.getLsbD_extractLsb']
  split
  · simp [*]
  · split
    · have h1 : i - 8 < 8 := by assumption
      have h2 : 8 + (i - 8) = i := by omega
      simp [h1, h2]
    · split
      · have h1 : i - 8 - 8 < 8 := by assumption
        have h2 : 16 + (i - 8 - 8) = i := by omega
        simp [h1, h2]
      · have h1 : i - 8 - 8 - 8 < 8 := by omega
        have h2 : 24 + (i - 8 - 8 - 8) = i := by omega
        simp [h1, h2]

/-- Masking a command word masks each of its fields. -/
theorem commandWord_and (o a b c o' a' b' c' : Byte) :
    commandWord o a b c &&& commandWord o' a' b' c' = commandWord (o &&& o') (a &&& a') (b &&& b') (c &&& c') := by
  rw [← commandWord_fields (commandWord o a b c &&& commandWord o' a' b' c')]
  congr 1 <;> simp only [fieldOPC, fieldA, fieldB, fieldC, BitVec.extractLsb'_and]
  · exact congrArg₂ _ (fieldOPC_commandWord o a b c) (fieldOPC_commandWord o' a' b' c')
  · exact congrArg₂ _ (fieldA_commandWord o a b c) (fieldA_commandWord o' a' b' c')
  · exact congrArg₂ _ (fieldB_commandWord o a b c) (fieldB_commandWord o' a' b' c')
  · exact congrArg₂ _ (fieldC_commandWord o a b c) (fieldC_commandWord o' a' b' c')

/-- A word is equal to another exactly when its four fields are. -/
theorem word_eq_iff (u v : Word) :
    u = v ↔ fieldOPC u = fieldOPC v ∧ fieldA u = fieldA v ∧ fieldB u = fieldB v ∧ fieldC u = fieldC v := by
  constructor
  · rintro rfl
    simp
  · rintro ⟨h1, h2, h3, h4⟩
    rw [← commandWord_fields u, h1, h2, h3, h4, commandWord_fields]

end Sys2Proof
end

