-- ==== Sys2Proof/Laws/HostSoftware.lean ====
section
/-! SUPPORT. What the host's codecs are made of: the elements of a vector as a list and back, and a list cut into pieces
(45_host_software.md R270 to R276). -/

namespace Sys2Proof.Machine

/-- A vector of length `n` has `n` elements. -/
@[simp] theorem length_elemsOf {n : Nat} (v : BitVec n) : (elemsOf v).length = n := by simp [elemsOf]

/-- A vector is rebuilt from its elements. -/
@[simp] theorem ofElems_elemsOf {n : Nat} (v : BitVec n) : ofElems n (elemsOf v) = v := by
  apply eq_of_elemAt_eq
  intro i h1 h2
  rw [elemAt, getMsbD_ofElems _ (length_elemsOf v) _ (by omega)]
  simp [elemsOf, Nat.sub_add_cancel h1]

/-- The elements of a vector built from a list of its length are the list. -/
theorem elemsOf_ofElems {n : Nat} (bs : List Bool) (h : bs.length = n) : elemsOf (ofElems n bs) = bs := by
  apply List.ext_getElem (by simp [h])
  intro i h1 h2
  simp only [elemsOf, List.getElem_map, List.getElem_range, elemAt, Nat.add_sub_cancel]
  exact getMsbD_ofElems _ h _ (by omega)

/-- The number whose bits are a vector's elements is the vector's number (00_scope.md R9). -/
@[simp] theorem natOfElems_elemsOf {n : Nat} (v : BitVec n) : natOfElems (elemsOf v) = v.toNat := by
  have h := congrArg BitVec.toNat (ofElems_elemsOf v)
  have hlt := natOfElems_lt (elemsOf v)
  rw [length_elemsOf] at hlt
  rwa [ofElems, BitVec.toNat_ofNat, Nat.mod_eq_of_lt hlt] at h

/-- The number of pieces is the number asked for. -/
@[simp] theorem length_pieces {α : Type} (n k : Nat) (xs : List α) : (pieces n k xs).length = k := by
  induction k generalizing xs with
  | zero => rfl
  | succ k ih => simp [pieces, ih]

/-- A list of `n * k` elements cut into `k` pieces: each has `n` elements, and joined they are the list. -/
theorem pieces_spec {α : Type} (n k : Nat) (xs : List α) (h : xs.length = n * k) :
    (pieces n k xs).flatten = xs ∧ ∀ p ∈ pieces n k xs, p.length = n := by
  induction k generalizing xs with
  | zero => simpa [pieces] using h
  | succ k ih =>
    rw [Nat.mul_succ] at h
    obtain ⟨h1, h2⟩ := ih (xs.drop n) (by rw [List.length_drop]; omega)
    refine ⟨by simp only [pieces, List.flatten_cons, h1, List.take_append_drop], ?_⟩
    intro p hp
    rcases List.mem_cons.mp hp with rfl | hp
    · rw [List.length_take]; omega
    · exact h2 p hp

end Sys2Proof.Machine
end

