-- ==== Sys2Proof/Laws/PerInstr.lean ====
section
/-! SUPPORT. Statements about every command as a term, one lemma a constructor. `RowFits`: the command's word has the fixed
bits of its row in spec/opcode_table.json, and its OPC field is the low byte of that row. -/

namespace Sys2Proof.Laws.RowFits

/-- The encoded word fits the command's row of the opcode table (30_encoding.md R93). -/
def Statement (i : Instr) : Prop := (opcodeRow i).fits (encode i) = true ∧ fieldOPC (encode i) = fieldOPC (opcodeRow i).value

theorem nop : Statement .nop := ⟨by decide, by decide⟩

theorem keySchedule : Statement .keySchedule := ⟨by decide, by decide⟩

theorem keyGenerate : Statement .keyGenerate := ⟨by decide, by decide⟩

theorem encryptBlock : Statement .encryptBlock := ⟨by decide, by decide⟩

theorem decryptBlock : Statement .decryptBlock := ⟨by decide, by decide⟩

/-- A field that a row does not fix is masked out. -/
theorem masked_out (x : Byte) : x &&& 0 = 0 := BitVec.and_zero

theorem rotorStageWiring (index letter : Byte) : Statement (.rotorStageWiring index letter) := by
  refine ⟨?_, by simp [encode, opcodeRow]; rfl⟩
  have hm : (0xFF0000FF : Word) = commandWord 0xFF 0 0 0xFF := by decide
  rw [OpcodeRow.fits, opcodeRow, encode, hm, commandWord_and]
  simp only [masked_out]
  rfl

theorem rotorConfigure (rotor notch init : Byte) : Statement (.rotorConfigure rotor notch init) := by
  refine ⟨?_, by simp [encode, opcodeRow]; rfl⟩
  have hm : (0x000000FF : Word) = commandWord 0xFF 0 0 0 := by decide
  rw [OpcodeRow.fits, opcodeRow, encode, hm, commandWord_and]
  simp only [masked_out]
  rfl

theorem rotorSetPositions (pos0 pos1 pos2 : Byte) : Statement (.rotorSetPositions pos0 pos1 pos2) := by
  refine ⟨?_, by simp [encode, opcodeRow]; rfl⟩
  have hm : (0x000000FF : Word) = commandWord 0xFF 0 0 0 := by decide
  rw [OpcodeRow.fits, opcodeRow, encode, hm, commandWord_and]
  simp only [masked_out]
  rfl

theorem rotorReset : Statement .rotorReset := ⟨by decide, by decide⟩

theorem rotorEncodeChar (char : Byte) : Statement (.rotorEncodeChar char) := by
  refine ⟨?_, by simp [encode, opcodeRow]; rfl⟩
  have hm : (0xFFFF00FF : Word) = commandWord 0xFF 0 0xFF 0xFF := by decide
  rw [OpcodeRow.fits, opcodeRow, encode, hm, commandWord_and]
  simp only [masked_out]
  rfl

end Sys2Proof.Laws.RowFits
end

