-- ==== Sys2Proof/Tests/Slice0.lean ====
section
/-! SUPPORT. Tests of the model against the vectors of spec/95_test_vectors.md (each test names its vector), and for every
statement of Certificates/Slice0/Obligations.lean that has hypotheses a witness that meets them. -/

namespace Sys2Proof.Tests

open Sys2Proof.Machine

/-! ## Helpers -/

/-- What a view of the next state is, or `none` where there is no next state. -/
def seen {α : Type} (r : Result) (f : State → α) : Option α :=
  match r with
  | .next t => some (f t)
  | .fault _ => none
  | .refused _ => none

/-- One step in which the host writes `w` to CMD. -/
def issue (w : Word) (s : State) : Result := step (s.onBus (.write 0x08 w) [])

/-- STATUS after a step. -/
def statusAfter (w : Word) (s : State) : Option Word := seen (issue w s) statusWord

/-- The wirings I, II and III of 95_test_vectors.md section 4.1. -/
def wiringI : Vector Letter 26 :=
  #v[4, 10, 12, 5, 11, 6, 3, 16, 21, 25, 13, 19, 14, 22, 24, 7, 23, 20, 18, 15, 0, 8, 1, 17, 2, 9]
def wiringII : Vector Letter 26 :=
  #v[0, 9, 3, 10, 18, 8, 17, 20, 23, 1, 11, 7, 22, 19, 12, 2, 16, 6, 25, 13, 15, 24, 5, 21, 14, 4]
def wiringIII : Vector Letter 26 :=
  #v[1, 3, 5, 7, 9, 11, 2, 15, 17, 19, 23, 21, 25, 13, 24, 4, 8, 22, 6, 0, 10, 12, 20, 18, 16, 14]

/-- Rotors III, II, I with the given notches, initial positions 0. -/
def rotorsWith (n0 n1 n2 : Letter) : Vector Rotor 3 :=
  #v[configured Rotor.reset wiringIII n0 0, configured Rotor.reset wiringII n1 0, configured Rotor.reset wiringI n2 0]

/-- The standard configuration of 95_test_vectors.md section 4.1. -/
def standard : State := { State.reset with rotors := rotorsWith 16 4 21 }

/-- Rotor III's wiring staged. -/
def stagedIII : State := { State.reset with wstage := wiringIII }

/-- The state after vector D-C1: the key of D-K1 scheduled. -/
def keyed : State := State.reset.withScheduled 0x133457799BBCDFF1

/-- The letters of a text through the machine, as the host reads them from CHAR_OUT. -/
def encoded (text : List Byte) (s : State) : Option (List Byte × List Letter) :=
  match hostEncode text s with
  | .ok (out, t) => some (out, t.rotors.toList.map Rotor.pos)
  | .error _ => none

/-- The bytes of an ASCII text. -/
def bytes (text : String) : List Byte := text.toList.map fun c => BitVec.ofNat 8 c.toNat

/-! ## Well-formedness: each check refuses an ill-formed command -/

theorem test_wf_accepts : (Instr.rotorStageWiring 25 0x7A).wellFormed = true ∧ (Instr.rotorConfigure 2 25 25).wellFormed = true ∧
    (Instr.rotorSetPositions 25 25 25).wellFormed = true ∧ (Instr.rotorEncodeChar 0xD7).wellFormed = true := by decide
theorem test_wf_stage_index : (Instr.rotorStageWiring 26 0x41).wellFormed = false := by decide
theorem test_wf_stage_letter : (Instr.rotorStageWiring 0 0x5B).wellFormed = false := by decide
theorem test_wf_configure_rotor : (Instr.rotorConfigure 3 0 0).wellFormed = false := by decide
theorem test_wf_configure_notch : (Instr.rotorConfigure 0 26 0).wellFormed = false := by decide
theorem test_wf_configure_init : (Instr.rotorConfigure 0 0 26).wellFormed = false := by decide
theorem test_wf_positions : (Instr.rotorSetPositions 26 0 0).wellFormed = false ∧
    (Instr.rotorSetPositions 0 26 0).wellFormed = false ∧ (Instr.rotorSetPositions 0 0 26).wellFormed = false := by decide
theorem test_wf_reject_char : (Instr.rotorEncodeChar 0x61).wellFormed = false := by decide

/-! ## Decoding: words written out from 30_encoding.md R91, R93 and the vectors of 95_test_vectors.md -/

/-- OPC in bits 7:0, all else zero (R93 rows 0x00 to 0x04 and 0x13). -/
theorem test_decode_no_arguments :
    decodeWord 0b00000000000000000000000000000000 = .command .nop ∧
    decodeWord 0b00000000000000000000000000000001 = .command .keySchedule ∧
    decodeWord 0b00000000000000000000000000000010 = .command .keyGenerate ∧
    decodeWord 0b00000000000000000000000000000011 = .command .encryptBlock ∧
    decodeWord 0b00000000000000000000000000000100 = .command .decryptBlock ∧
    decodeWord 0b00000000000000000000000000010011 = .command .rotorReset := by decide

/-- C, B, A, OPC from bit 31 down; the stage word of R-C1's table, entry 1 of rotor III. -/
theorem test_decode_stage : decodeWord 0b00000000010001000000000100010000 = .command (.rotorStageWiring 1 0x44) := by decide

/-- The configure word of rotor 2 in section 4.1, 0x00150211. -/
theorem test_decode_configure : decodeWord 0b00000000000101010000001000010001 = .command (.rotorConfigure 2 21 0) := by decide

/-- R-C25's word, 0x03020112. -/
theorem test_decode_positions : decodeWord 0b00000011000000100000000100010010 = .command (.rotorSetPositions 1 2 3) := by decide

/-- R-C24's word, 0x00004814. -/
theorem test_decode_char : decodeWord 0b00000000000000000100100000010100 = .command (.rotorEncodeChar 0x48) := by decide

/-- Vectors D-C9, D-C10, R-C5, R-C16, R-C23, B-11. -/
theorem test_decode_reserved : ([0x00000103, 0x01000001, 0x01411A10, 0x00000113, 0x00014814, 0x00000100] : List Word).all
    (fun w => decodeWord w == .reservedField) = true := by decide

/-- Vectors B-13 to B-15. -/
theorem test_decode_illegal : ([0x00000005, 0xFFFFFFFF, 0x000000FF, 0x00000015, 0x0000000F, 0x00000020] : List Word).all
    (fun w => decodeWord w == .illegalOpcode) = true := by decide

theorem test_decode_table_word : decodeTableWord 32 0x00150211 = some (.rotorConfigure 2 21 0) ∧
    decodeTableWord 32 0x00000103 = none ∧ decodeTableWord 8 0x13 = some .rotorReset ∧
    decodeTableWord 40 0x100000000 = none := by decide

/-- Entry 0 of rotor III staged as the first command after reset. -/
theorem test_fetch_word : seen (step (State.reset.withFetchWord 32 0x00420010)) (fun t => t.wstage[0]) = some 1 := by decide

/-! ## The Feistel engine -/

/-- Vectors D-C1 (subkeys 1, 2 and 16 of section 3.2) and its STATUS. -/
theorem test_key_schedule :
    seen (issue 0x00000001 { State.reset with key := 0x133457799BBCDFF1 })
      (fun t => (t.sk[0], t.sk[1], t.sk[15], statusWord t)) =
      some (0x1B02EFFC7072, 0x79AED9DBC9E5, 0xCB3D8B0E17F5, 0x00000001) := by decide +kernel

/-- Vector D-C11 as far as it holds for every drawn value. -/
theorem test_key_generate : seen (issue 0x00000002 State.reset) (fun t => (t.keyValid, t.err, t.sticky)) =
    some (true, 0x00, false) := rfl

/-- Vector D-C2. -/
theorem test_encrypt_block : seen (issue 0x00000003 { keyed with data := 0x0123456789ABCDEF }) (fun t => (t.result, t.data)) =
    some (0x85E813540F0AB405, 0x0123456789ABCDEF) := by decide +kernel

/-- Vector D-C5. -/
theorem test_encrypt_no_key : statusAfter 0x00000003 State.reset = some 0x00000410 := by decide

/-- Vector D-C4. -/
theorem test_decrypt_block : seen (issue 0x00000004 { keyed with data := 0x85E813540F0AB405 }) State.result =
    some 0x0123456789ABCDEF := by decide +kernel

/-- Vector D-C7 (RESULT is kept). -/
theorem test_decrypt_no_key : seen (issue 0x00000004 { State.reset with result := 5 }) (fun t => (statusWord t, t.result)) =
    some (0x00000410, 5) := by decide

/-- Vectors D-P2, D-P3, D-P5, D-P8, D-P11. -/
theorem test_permutations :
    perm (0x8000000000000000 : BitVec 64) fipsTables.ip = 0x0000000001000000 ∧
    perm (0x0000000000000001 : BitVec 64) fipsTables.ip = 0x0000008000000000 ∧
    perm (0x00000001 : BitVec 32) fipsTables.e = 0x800000000002 ∧
    perm (0x80000000 : BitVec 32) fipsTables.p = 0x00800000 ∧
    perm (0x0101010101010101 : BitVec 64) fipsTables.pc1 = 0 := by decide +kernel

/-- Vectors D-F2 and D-F3: the row bits of S-boxes 1, 2, 7 and 8. -/
theorem test_sbox_rows :
    [0, 1, 6, 7].map (fun g => sboxAt fipsTables g (sboxRow 0b000001) (sboxCol 0b000001)) = [0, 3, 13, 1] ∧
    [0, 1, 6, 7].map (fun g => sboxAt fipsTables g (sboxRow 0b100000) (sboxCol 0b100000)) = [4, 0, 1, 7] := by decide

/-- Vector D-K2. -/
theorem test_known_answer : encrypt fipsTables 0x8787878787878787 (keySchedule fipsTables 0x0E329232EA6D0D73) = 0 := by
  decide +kernel

/-! ## The rotor engine -/

/-- Vectors R-C1 and R-C2. -/
theorem test_stage_wiring : seen (issue 0x00420010 State.reset) (fun t => (t.wstage[0], t.wstage[1], statusWord t)) =
    some (1, 0, 0x00000000) ∧ seen (issue 0x00620010 State.reset) (fun t => t.wstage[0]) = some 1 := by decide

/-- Vectors R-C3, R-C4 and R-C5. -/
theorem test_stage_wiring_errors : statusAfter 0x00411A10 State.reset = some 0x00000310 ∧
    statusAfter 0x00310010 State.reset = some 0x00000610 ∧ statusAfter 0x01411A10 State.reset = some 0x00000210 := by decide

/-- Vectors R-C7 and R-C27's initial position; REV[0][1] = 0 is section 4.1's. -/
theorem test_configure :
    seen (issue 0x05100011 stagedIII)
      (fun t => (t.rotors[0].wiring == wiringIII, t.rotors[0].rev[1], t.rotors[0].notch, t.rotors[0].init, t.rotors[0].pos,
        statusWord t)) = some (true, 0, 16, 5, 5, 0x00000002) := by decide +kernel

/-- Vectors R-C6, R-C9, R-C10 and R-C11. -/
theorem test_configure_errors : statusAfter 0x00100011 State.reset = some 0x00000610 ∧
    statusAfter 0x00000311 State.reset = some 0x00000310 ∧ statusAfter 0x001A0011 State.reset = some 0x00000310 ∧
    statusAfter 0x1A000011 State.reset = some 0x00000310 := by decide +kernel

/-- Vector R-C12. -/
theorem test_set_positions : seen (issue 0x00040312 standard) (fun t => (busRead 0x30 t, busRead 0x34 t, statusWord t)) =
    some (0x00000403, 0x00000000, 0x0000000E) := by decide +kernel

/-- Vectors R-C15 and R-C28. -/
theorem test_set_positions_errors : seen (issue 0x00001A12 standard) (fun t => (busRead 0x30 t, statusWord t)) =
    some (0x00000000, 0x0000031E) ∧ statusAfter 0x1A000012 State.reset = some 0x00000310 := by decide +kernel

/-- Vector R-C14, from positions (4, 4, 0). -/
theorem test_rotor_reset :
    seen (issue 0x00000013 { standard with rotors := atPositions standard.rotors 4 4 0 }) (fun t => busRead 0x30 t) =
      some 0x00000000 := by decide +kernel

/-- Vectors R-M1 and R-C13. -/
theorem test_encode_letter : seen (issue 0x00004814 standard) (fun t => (t.charOut, busRead 0x30 t)) = some (0x51, 0x00000001) ∧
    seen (issue 0x00004814 { standard with rotors := atPositions standard.rotors 3 4 0 })
      (fun t => (t.charOut, busRead 0x30 t)) = some (0x46, 0x00000404) := by decide +kernel

/-- Vectors R-C17 to R-C21. -/
theorem test_encode_other_bytes : statusAfter 0x00006114 State.reset = some 0x00000510 ∧
    statusAfter 0x00002014 State.reset = some 0x00000510 ∧ statusAfter 0x00006114 standard = some 0x0000071E ∧
    statusAfter 0x0000FF14 standard = some 0x0000071E ∧
    seen (issue 0x0000D714 standard) (fun t => (t.charOut, busRead 0x30 t)) = some (0xD7, 0) := by decide +kernel

/-- Vectors R-S3 and R-S5: no double step, and three carries in one step. -/
theorem test_stepping :
    [1, 2, 3].map (fun n => (stepAll^[n] (atPositions (rotorsWith 4 5 21) 3 4 0)).toList.map Rotor.pos) =
      [[4, 5, 1], [5, 5, 1], [6, 5, 1]] ∧
    (stepAll (atPositions (rotorsWith 16 4 21) 15 3 0)).toList.map Rotor.pos = [16, 4, 1] := by decide +kernel

/-- Vector R-M4. -/
theorem test_message : encoded (bytes "HOW ARE YOU") standard = some (bytes "QNI LLG TKC", [9, 0, 0]) := by decide +kernel

/-! ## Control, the bus and reset -/

/-- Vectors B-12 and B-10. -/
theorem test_nop : statusAfter 0x00000000 { State.reset with err := 0x02, sticky := true } = some 0x00000010 ∧
    issue 0x00000000 State.reset = .next State.reset := ⟨by decide, rfl⟩

/-- Vectors B-13 and B-14. -/
theorem test_illegal : statusAfter 0x00000005 State.reset = some 0x00000110 ∧
    statusAfter 0xFFFFFFFF State.reset = some 0x00000110 := by decide

/-- Vectors B-1, B-3 and B-4. -/
theorem test_reads : [0x00, 0x08, 0x0C, 0x2C, 0x3C, 0x7C].map (fun off => seen (step (State.reset.onBus (.read off) [])) State.returned) =
    [some [0x47365231], some [0], some [0], some [0], some [0], some [0]] := by decide

/-- Vectors B-5, B-7, B-8 and B-9: a write, then a read of the same offset, in two steps. -/
theorem test_write_then_read :
    [(0x00, 0x12345678), (0x40, 0xFFFFFFFF), (0x18, 0x01234567), (0x20, 0x1)].map
      (fun (p : Nat × Word) =>
        match Sys2Proof.core.run 2 (State.reset.onBus (.write p.1 p.2) [.read p.1]) with
        | .next t => t.returned
        | .fault _ => []
        | .refused _ => []) = [[0x47365231], [0], [0x01234567], [0]] := by decide

/-- Vector D-C6: a write of the same value to KEY_HI invalidates the key. -/
theorem test_key_write : seen (step ({ State.reset with key := 0x133457799BBCDFF1, keyValid := true }.onBus (.write 0x10 0x13345779) []))
    (fun t => (t.key, statusWord t)) = some (0x133457799BBCDFF1, 0x00000000) := by decide

/-- Vector B-17. -/
theorem test_outside_contract : step (State.reset.onBus (.otherWidth 8 0x18) []) = .refused (.accessWidth 8) ∧
    step (State.reset.onBus (.read 0x19) []) = .refused (.misaligned 0x19) ∧
    step (State.reset.onBus (.write 0x80 0) []) = .refused (.outsideWindow 0x80) := ⟨rfl, rfl, rfl⟩

/-- Vector B-18. -/
theorem test_reset : seen (step ({ standard with err := 1, sticky := true, key := 5 }.onBus .reset [])) (· == State.reset) = some true := by
  decide +kernel

/-! ## The host's procedures (outside the core) -/

/-- The bits of a result, as a list of 64-bit blocks. -/
def blocksOf (r : Except HostError (List Bool)) : Option (List Nat) :=
  match r with
  | .ok bits => some ((pieces 64 (bits.length / 64) bits).map natOfElems)
  | .error _ => none

/-- Vectors H-P1 and H-P3. -/
theorem test_pad : blocksOf (pad []) = some [0x0808080808080808] ∧
    blocksOf (pad (elemsOf (0x4142434445464748 : BitVec 64))) = some [0x4142434445464748, 0x0808080808080808] := by
  decide +kernel

/-- Vectors H-P5, H-P6, H-P7 and H-P8. -/
theorem test_unpad : [elemsOf (0x4142434445464700 : BitVec 64), elemsOf (0x4142434445464709 : BitVec 64), elemsOf (0x02 : BitVec 8),
      elemsOf (0x4142434445460302 : BitVec 64)].map
      (fun b => match unpad b with
        | .ok out => some (natOfElems out)
        | .error _ => none) = [none, none, none, some 0x414243444546] := by decide +kernel

/-- Vectors H-K2, H-K3 and H-K4. -/
theorem test_hex_key : (keyFromHex "133457799bbcdff1".toList).toOption = some 0x133457799BBCDFF1 ∧
    keyToHex 0x0123456789ABCDEF = "0123456789ABCDEF".toList ∧
    (keyFromHex "13345779".toList).toOption = none ∧ (keyFromHex "133457799BBCDFG1".toList).toOption = none := by
  decide +kernel

/-- Vector H-E2. -/
theorem test_ecb_encrypt : blocksOf ((ecbEncrypt [0x41, 0x42, 0x43] keyed).map Prod.fst) = some [0x99F4D7AD2F365BEC] := by
  decide +kernel

/-! ## Witnesses: the hypotheses of each statement are met, clause by clause -/

/-- Every rotor of the standard configuration is good and configured, and stands at its initial position. -/
theorem standard_rotors (n0 n1 n2 : Letter) (r : RotorNo) :
    RotorOk (rotorsWith n0 n1 n2)[r] ∧ (rotorsWith n0 n1 n2)[r].cfg = true ∧
      (rotorsWith n0 n1 n2)[r].pos = (rotorsWith n0 n1 n2)[r].init := by
  have h1 : isBijection wiringI = true := by decide +kernel
  have h2 : isBijection wiringII = true := by decide +kernel
  have h3 : isBijection wiringIII = true := by decide +kernel
  fin_cases r
  · exact ⟨rotorOk_configured _ _ _ _ h3, rfl, rfl⟩
  · exact ⟨rotorOk_configured _ _ _ _ h2, rfl, rfl⟩
  · exact ⟨rotorOk_configured _ _ _ _ h1, rfl, rfl⟩

/-- The standard configuration with the key of D-K1 scheduled. -/
def ready : State := standard.withScheduled 0x133457799BBCDFF1

/-- It meets the invariant. -/
theorem ready_inv : CoreInv ready :=
  ⟨fun _ => rfl, fun r => (standard_rotors 16 4 21 r).1, by decide, fun h => absurd rfl h⟩

theorem witness_DecodeAndEncodeAgree : decodeWord 0x00420010 = .command (.rotorStageWiring 0 0x42) := by decide

theorem witness_StepServesOldestEvent : State.reset.pending = [] ∧
    (State.reset.onBus (.read 0x00) [.reset]).pending = .read 0x00 :: [.reset] := ⟨rfl, rfl⟩

theorem witness_StepRunsDecodedCommand : decodeWord 0x00000000 = .command .nop ∧
    decodeWord 0x19191912 = .command (.rotorSetPositions 25 25 25) := by decide

/-- The two ranges of unassigned codes at their ends. -/
theorem witness_IllegalWordsFail :
    (0x05 ≤ (fieldOPC 0x00000005).toNat ∧ (fieldOPC 0x00000005).toNat ≤ 0x0F) ∧
    (0x05 ≤ (fieldOPC 0x0000000F).toNat ∧ (fieldOPC 0x0000000F).toNat ≤ 0x0F) ∧
    0x15 ≤ (fieldOPC 0x00000015).toNat ∧ 0x15 ≤ (fieldOPC 0xFFFFFFFF).toNat := by decide

/-- The three disjuncts, and the three masking clauses. -/
theorem witness_ReservedFieldWordsFail :
    ((fieldOPC 0x00000104).toNat ≤ 0x04 ∧ fieldA 0x00000104 ≠ 0) ∧
    ((fieldOPC 0x01000013).toNat = 0x13 ∧ fieldC 0x01000013 ≠ 0) ∧
    ((fieldOPC 0xFF411910).toNat = 0x10 ∧ fieldC 0xFF411910 ≠ 0) ∧
    ((fieldOPC 0x00014814).toNat = 0x14 ∧ fieldB 0x00014814 ≠ 0) := by decide

theorem witness_FailedCommandChangesOnlyStatus :
    issueCommand 0x00000003 State.reset = .next (State.reset.failed .noKey) ∧ (State.reset.failed .noKey).err ≠ 0 :=
  ⟨rfl, by decide⟩

theorem witness_RotorWordFields : (0x30 = 0x30 ∧ Rotor.pos = Rotor.pos) ∧ (0x34 = 0x34 ∧ Rotor.init = Rotor.init) ∧
    0x38 = 0x38 ∧ Rotor.notch = Rotor.notch := ⟨⟨rfl, rfl⟩, ⟨rfl, rfl⟩, rfl, rfl⟩

/-- The offsets of the three 64-bit registers, with the value each holds in a state. -/
theorem witness_HalfRegistersStoreAndRead : (0x10 = 0x10 ∧ keyed.key = 0x133457799BBCDFF1) ∧
    (0x18 = 0x18 ∧ keyed.data = 0) ∧ 0x20 = 0x20 ∧ keyed.result = 0 := ⟨⟨rfl, rfl⟩, ⟨rfl, rfl⟩, rfl, rfl⟩

/-- The reserved range at its ends. -/
theorem witness_ReservedAndReadOnlyOffsets : (0x40 ≤ 0x40 ∧ 0x40 ≤ 0x7C ∧ 0x40 % 4 = 0) ∧
    (0x40 ≤ 0x7C ∧ 0x7C ≤ 0x7C ∧ 0x7C % 4 = 0) := by decide

theorem witness_ReadsAreIdempotent : (0x00 % 4 = 0 ∧ 0x00 ≤ 0x7C) ∧ 0x7C % 4 = 0 ∧ 0x7C ≤ 0x7C := by decide

/-- The contract's range at its ends, and just outside it. -/
theorem witness_OnlyContractAccessesComplete : (0x00 % 4 = 0 ∧ 0x00 ≤ 0x7C) ∧ (0x7C % 4 = 0 ∧ 0x7C ≤ 0x7C) ∧
    0x7D % 4 ≠ 0 ∧ 0x7F < 0x80 := by decide

theorem witness_NopClearsErr : (fieldOPC 0x00000100 = 0x00 ∧ 0x00000100 ≠ 0x00000000#32) ∧
    statusWord { State.reset with err := 0x04, sticky := true } = 0x00000410 := by decide

theorem witness_KeyScheduleCachesSubkeys : (fieldOPC 0x01000001 = 0x01 ∧ 0x01000001 ≠ 0x00000001#32) ∧
    exec .keySchedule { State.reset with key := 0x133457799BBCDFF1 } = .next keyed := ⟨by decide, rfl⟩

theorem witness_KeyGenerateLoadsTheDraw : fieldOPC 0x00010002 = 0x02 ∧ 0x00010002 ≠ 0x00000002#32 := by decide

theorem witness_EncryptBlockWritesResult : keyed.keyValid = true ∧ State.reset.keyValid = false ∧
    fieldOPC 0x00000103 = 0x03 ∧ 0x00000103 ≠ 0x00000003#32 := by decide

theorem witness_DecryptBlockWritesResult : keyed.keyValid = true ∧ State.reset.keyValid = false ∧
    fieldOPC 0x00000104 = 0x04 ∧ 0x00000104 ≠ 0x00000004#32 := by decide

/-- The index clause at 26 and 255; the letter clause beside the ends of both letter ranges. -/
theorem witness_StageWiringWritesOneEntry : 25 < (26 : Byte).toNat ∧ 25 < (255 : Byte).toNat ∧
    (([0x40, 0x5B, 0x60, 0x7B] : List Byte).all fun b =>
      decide ((25 : Byte).toNat ≤ 25 ∧ ¬ (0x41 ≤ b.toNat ∧ b.toNat ≤ 0x5A) ∧ ¬ (0x61 ≤ b.toNat ∧ b.toNat ≤ 0x7A))) = true ∧
    (fieldOPC 0x00411910 = 0x10 ∧ fieldC 0x00411910 = 0) ∧ fieldOPC 0x01411910 = 0x10 ∧ fieldC 0x01411910 ≠ 0 := by decide

/-- A staged bijection, each field just out of range, and a staged table that is no bijection. -/
theorem witness_ConfigureBuildsRotor : Function.Bijective (fun i : Letter => stagedIII.wstage[i]) ∧
    2 < (3 : Byte).toNat ∧ 25 < (26 : Byte).toNat ∧
    (¬ Function.Bijective (fun i : Letter => State.reset.wstage[i]) ∧ (2 : Byte).toNat ≤ 2 ∧ (25 : Byte).toNat ≤ 25) ∧
    fieldOPC 0x05100011 = 0x11 := by
  refine ⟨(isBijection_iff _).mp (by decide +kernel), by decide, by decide, ⟨?_, by decide, by decide⟩, by decide⟩
  rw [← isBijection_iff]
  decide +kernel

theorem witness_SetPositionsWritesPos : 25 < (26 : Byte).toNat ∧ fieldOPC 0x00040312 = 0x12 := by decide

theorem witness_RotorResetRestoresInit : fieldOPC 0x00000113 = 0x13 ∧ 0x00000113 ≠ 0x00000013#32 := by decide

/-- All configured; a byte of each class that is no letter, beside the ends of 'A'..'Z'; some rotor unconfigured. -/
theorem witness_EncodeCharWritesCharOut : (∀ r : RotorNo, standard.rotors[r].cfg = true ∧ RotorOk standard.rotors[r]) ∧
    (¬ (0x41 ≤ (0x40 : Byte).toNat ∧ (0x40 : Byte).toNat ≤ 0x5A) ∧ isRejectByte 0x40 = false) ∧
    (¬ (0x41 ≤ (0x5B : Byte).toNat ∧ (0x5B : Byte).toNat ≤ 0x5A) ∧ isRejectByte 0x5B = false) ∧
    (¬ (0x41 ≤ (0xFF : Byte).toNat ∧ (0xFF : Byte).toNat ≤ 0x5A) ∧ isRejectByte 0xFF = true) ∧
    (∃ r : RotorNo, State.reset.rotors[r].cfg = false) ∧
    (fieldOPC 0x00004814 = 0x14 ∧ fieldB 0x00004814 = 0 ∧ fieldC 0x00004814 = 0) ∧
    fieldOPC 0x01004814 = 0x14 ∧ fieldC 0x01004814 ≠ 0 :=
  ⟨fun r => ⟨(standard_rotors 16 4 21 r).2.1, (standard_rotors 16 4 21 r).1⟩, by decide, by decide, by decide, ⟨0, rfl⟩,
    by decide⟩

theorem witness_PermTakesTableElements : (1 ≤ 1 ∧ 1 ≤ 64) ∧ 1 ≤ 64 ∧ 64 ≤ 64 := by decide

theorem witness_RotlMovesTowardElementOne : (1 ≤ 1 ∧ 1 ≤ 28) ∧ 1 ≤ 28 ∧ 28 ≤ 28 := by decide

/-- The keys of vector D-B2 differ in the parity elements alone. -/
theorem witness_ParityElementsDoNotMatter : (0x133457799BBCDFF1 : BitVec 64) ≠ 0x123556789ABDDEF0 ∧
    ((List.range 64).all fun i => (i + 1) % 8 == 0 ||
      elemAt (0x133457799BBCDFF1 : BitVec 64) (i + 1) == elemAt (0x123556789ABDDEF0 : BitVec 64) (i + 1)) = true := by
  decide +kernel

/-- Group 3 of the vector of section 3.3: row 0, column 15; group 4: row 2, column 13. -/
theorem witness_ExpansionAndSboxBank :
    ((0 : Fin 4).val = 2 * (elemAt (0x6117BA866527 : BitVec 48) 13).toNat + (elemAt (0x6117BA866527 : BitVec 48) 18).toNat ∧
      (15 : Fin 16).val = 8 * (elemAt (0x6117BA866527 : BitVec 48) 14).toNat + 4 * (elemAt (0x6117BA866527 : BitVec 48) 15).toNat +
        2 * (elemAt (0x6117BA866527 : BitVec 48) 16).toNat + (elemAt (0x6117BA866527 : BitVec 48) 17).toNat) ∧
    (2 : Fin 4).val = 2 * (elemAt (0x6117BA866527 : BitVec 48) 19).toNat + (elemAt (0x6117BA866527 : BitVec 48) 24).toNat ∧
      (13 : Fin 16).val = 8 * (elemAt (0x6117BA866527 : BitVec 48) 20).toNat + 4 * (elemAt (0x6117BA866527 : BitVec 48) 21).toNat +
        2 * (elemAt (0x6117BA866527 : BitVec 48) 22).toNat + (elemAt (0x6117BA866527 : BitVec 48) 23).toNat := by decide

/-- Both directions. -/
theorem witness_BlockEngineRounds :
    (∃ (out : BitVec 64) (ks : Fin 16 → Subkey),
      out = encrypt fipsTables 0x0123456789ABCDEF keyed.sk ∧ ∀ n : Fin 16, ks n = keyed.sk[n]) ∧
    ∃ (out : BitVec 64) (ks : Fin 16 → Subkey),
      out = decrypt fipsTables 0x85E813540F0AB405 keyed.sk ∧ ∀ n : Fin 16, ks n = keyed.sk[15 - n.val] :=
  ⟨⟨_, fun n => keyed.sk[n], rfl, fun _ => rfl⟩, ⟨_, fun n => keyed.sk[15 - n.val], rfl, fun _ => rfl⟩⟩

theorem witness_DecryptInvertsEncrypt : tablesWf fipsTables = true := by decide +kernel

theorem witness_ComplementationProperty : tablesWf fipsTables = true := witness_DecryptInvertsEncrypt

/-- The wrap of vector R-U3 and no wrap. -/
theorem witness_UnitMapsAndReflector : (24 : Letter).val = ((25 : Letter).val + (25 : Letter).val) % 26 ∧
    (1 : Letter).val = ((0 : Letter).val + (1 : Letter).val) % 26 := by decide

theorem witness_UnitMapsInvert : RotorOk standard.rotors[0] ∧ standard.rotors[0].cfg = true :=
  ⟨(standard_rotors 16 4 21 0).1, rfl⟩

/-- Both carries happen, and neither, in one state each (vectors R-S5 and R-S6). -/
theorem witness_StepAllSingleCarry : ((15 + 1) % 26 = 16 ∧ (3 + 1) % 26 = 4) ∧ (16 + 1) % 26 ≠ 16 := by decide

theorem witness_SteppingCountsLetters : (∀ r : RotorNo, standard.rotors[r].cfg = true) ∧
    ∀ c ∈ bytes "HOW ARE YOU", isRejectByte c = false :=
  ⟨fun r => (standard_rotors 16 4 21 r).2.1, by decide⟩

theorem witness_SignalPathSelfInverse : ∀ r : RotorNo, RotorOk standard.rotors[r] ∧ standard.rotors[r].cfg = true :=
  fun r => ⟨(standard_rotors 16 4 21 r).1, (standard_rotors 16 4 21 r).2.1⟩

theorem witness_RotorStreamRoundTrip :
    (∀ r : RotorNo, RotorOk standard.rotors[r] ∧ standard.rotors[r].cfg = true ∧ standard.rotors[r].pos = standard.rotors[r].init) ∧
    ∀ c ∈ bytes "HOW ARE YOU", isRejectByte c = false :=
  ⟨standard_rotors 16 4 21, by decide⟩

/-- The two notches of vectors R-S1 and R-S2. -/
theorem witness_NotchPropagation :
    ((∀ r : RotorNo, (rotorsWith 4 4 21)[r].pos = 0) ∧ (rotorsWith 4 4 21)[0].notch = 4 ∧ (rotorsWith 4 4 21)[1].notch ≠ 1) ∧
    (∀ r : RotorNo, (rotorsWith 4 1 21)[r].pos = 0) ∧ (rotorsWith 4 1 21)[0].notch = 4 ∧ (rotorsWith 4 1 21)[1].notch = 1 := by
  refine ⟨⟨fun r => ?_, rfl, by decide⟩, fun r => ?_, rfl, rfl⟩ <;> fin_cases r <;> rfl

theorem witness_StepKeepsInvariant : CoreInv (ready.onBus (.write 0x08 0x00000013) []) ∧
    ∃ t, step (ready.onBus (.write 0x08 0x00000013) []) = .next t :=
  ⟨⟨ready_inv.1, ready_inv.2, ready_inv.3, ready_inv.4⟩, ⟨_, rfl⟩⟩

theorem witness_ContractRunsNeverStop : Safe (ready.onBus (.read 0x7C) [.write 0x00 0, .reset]) :=
  ⟨⟨ready_inv.1, ready_inv.2, ready_inv.3, ready_inv.4⟩, by
    intro e he
    simp only [State.onBus, List.mem_cons, List.not_mem_nil, or_false] at he
    rcases he with rfl | rfl | rfl <;> decide⟩

/-- A failing command; an access that keeps STICKY; and reset. -/
theorem witness_OnlyResetClearsSticky :
    (issueCommand 0x00000003 State.reset = .next (State.reset.failed .noKey) ∧ (State.reset.failed .noKey).err ≠ 0) ∧
    (∃ t, step ((State.reset.failed .noKey).onBus (.write 0x08 0x00000000) []) = .next t) ∧
    (HostEvent.write 0x08 0x00000000 ≠ .reset ∧ (State.reset.failed .noKey).sticky = true) ∧
    ∃ t, step (State.reset.onBus .reset []) = .next t :=
  ⟨⟨rfl, by decide⟩, ⟨_, rfl⟩, by decide, ⟨_, rfl⟩⟩

/-- KEY_VALID rising, and falling. -/
theorem witness_KeyValidChangesOnlyByKeyEvents :
    (∃ t, step (State.reset.onBus (.write 0x08 0x00000001) []) = .next t ∧ State.reset.keyValid = false ∧ t.keyValid = true) ∧
    ∃ t, step (keyed.onBus (.write 0x14 0) []) = .next t ∧ keyed.keyValid = true ∧ t.keyValid = false :=
  ⟨⟨_, rfl, rfl, rfl⟩, ⟨_, rfl, rfl, rfl⟩⟩

theorem witness_StaleSubkeysAreNeverUsed :
    (∀ e ∈ [HostEvent.write 0x18 5, .write 0x08 0x00000000], e ≠ .write 0x08 0x00000001 ∧ e ≠ .write 0x08 0x00000002) ∧
    (∃ t, hostAccesses [.write 0x10 7, .write 0x18 5, .write 0x08 0x00000000] keyed = .ok t) ∧
    ∃ t, hostAccesses [.write 0x14 7, .write 0x18 5, .write 0x08 0x00000000] keyed = .ok t :=
  ⟨by decide, ⟨_, rfl⟩, ⟨_, rfl⟩⟩

/-- The step that each clause speaks of: it completes, and the element does change. -/
theorem witness_EachElementHasItsWriters :
    (∃ t, step (State.reset.onBus (.write 0x10 1) []) = .next t ∧ t.key ≠ State.reset.key) ∧
    (∃ t, step (stagedIII.onBus (.write 0x08 0x05100011) []) = .next t ∧
      t.rotors[0] ≠ { stagedIII.rotors[0] with pos := t.rotors[0].pos } ∧ t.rotors[0].pos ≠ stagedIII.rotors[0].pos) ∧
    (∃ t, step (State.reset.onBus (.write 0x08 0x00420010) []) = .next t ∧ t.wstage ≠ State.reset.wstage) ∧
    (∃ t, step (standard.onBus (.write 0x08 0x00004814) []) = .next t ∧ t.charOut ≠ standard.charOut) ∧
    (∃ t, step (keyed.onBus (.write 0x08 0x00000003) []) = .next t ∧ t.result ≠ keyed.result) ∧
    (∃ t, step (keyed.onBus (.write 0x1C 1) []) = .next t ∧ t.data ≠ keyed.data) ∧
    (∃ t, step ({ State.reset with key := 0x133457799BBCDFF1 }.onBus (.write 0x08 0x00000001) []) = .next t ∧
      t.sk ≠ State.reset.sk) ∧
    ∃ t, step (State.reset.onBus (.write 0x08 0x000000FF) []) = .next t ∧ t.err ≠ State.reset.err :=
  ⟨⟨_, rfl, by decide⟩, ⟨_, rfl, by decide +kernel⟩, ⟨_, rfl, by decide⟩, ⟨_, rfl, by decide +kernel⟩,
    ⟨_, rfl, by decide +kernel⟩, ⟨_, rfl, by decide +kernel⟩, ⟨_, rfl, by decide +kernel⟩, ⟨_, rfl, by decide⟩⟩

/-- A command of each engine's list. -/
theorem witness_EnginesShareNoState :
    (Instr.decryptBlock = .keySchedule ∨ Instr.decryptBlock = .keyGenerate ∨ Instr.decryptBlock = .encryptBlock ∨
      Instr.decryptBlock = .decryptBlock) ∧ ∃ c, Instr.rotorEncodeChar 0x48 = .rotorEncodeChar c := by
  exact ⟨by decide, ⟨0x48, rfl⟩⟩

/-- Two different states that agree: SK differs while KEY_VALID = 0. -/
theorem witness_UnspecifiedResetValuesUnobservable :
    AgreeObservably State.reset { State.reset with sk := Vector.replicate 16 1 } ∧
    State.reset ≠ { State.reset with sk := Vector.replicate 16 1 } :=
  ⟨⟨rfl, rfl, fun h => absurd h (by decide), rfl, rfl, fun _ => rfl, fun _ => rfl, fun _ => rfl, fun _ => rfl, fun _ _ => rfl,
    fun _ _ => rfl, rfl, rfl, rfl, rfl, rfl, rfl, rfl⟩, by decide +kernel⟩

/-- The empty message and one byte. -/
theorem witness_UnpadInvertsPad : ([] : List Bool).length % 8 = 0 ∧ (elemsOf (0x41 : BitVec 8)).length % 8 = 0 := by decide

theorem witness_HybridRoundTrip : CoreInv ready ∧ ready.keyValid = true ∧ (∀ r : RotorNo, ready.rotors[r].cfg = true) ∧
    ∀ c ∈ bytes "HOW ARE YOU", isRejectByte c = false :=
  ⟨ready_inv, rfl, fun r => (standard_rotors 16 4 21 r).2.1, by decide⟩

end Sys2Proof.Tests
end

section
/-! PROOF. Safe runs (00_scope.md R16; 20_memory.md R63, R70): a command, a bus event and a step keep the invariant, no
access inside the contract is refused, and serving an event does not touch the accesses still pending. -/

namespace Sys2Proof.Machine

/-! ### Rotor banks -/

/-- Every rotor of a bank is good: the `rotors` clause of `CoreInv`, said of the bank alone. -/
def BankOk (rs : Vector Rotor 3) : Prop := ∀ r : RotorNo, RotorOk rs[r]

/-- Moving a rotor does not touch its wiring. -/
theorem RotorOk.at {R : Rotor} (h : RotorOk R) (p : Letter) : RotorOk (R.at p) := h

theorem BankOk.rotateAt {rs : Vector Rotor 3} (h : BankOk rs) (r : RotorNo) : BankOk (rotateAt rs r) := fun q => by
  rw [rotateAt_get]
  split
  · exact (h r).at _
  · exact h q

theorem BankOk.stepAll {rs : Vector Rotor 3} (h : BankOk rs) : BankOk (stepAll rs) := by
  simp only [Machine.stepAll]
  split
  · split
    · exact ((h.rotateAt 0).rotateAt 1).rotateAt 2
    · exact (h.rotateAt 0).rotateAt 1
  · exact h.rotateAt 0

theorem BankOk.set {rs : Vector Rotor 3} (h : BankOk rs) (r : RotorNo) {R : Rotor} (hR : RotorOk R) :
    BankOk (rs.set r R) := fun q => by
  rw [set_rotor_get]
  split
  · exact hR
  · exact h q

theorem BankOk.atPositions {rs : Vector Rotor 3} (h : BankOk rs) (p0 p1 p2 : Letter) :
    BankOk (atPositions rs p0 p1 p2) := fun r => by
  rw [atPositions_get]
  exact (h r).at _

theorem BankOk.atInit {rs : Vector Rotor 3} (h : BankOk rs) : BankOk (atInit rs) := fun r => by
  rw [atInit_get]
  exact (h r).at _

/-- The rotors of reset are not configured, so nothing is asked of their wiring (10_state.md R34). -/
theorem bankOk_reset : BankOk State.reset.rotors := fun r hcfg => by
  simp [State.reset, Rotor.reset] at hcfg

/-! ### The invariant -/

theorem CoreInv.bankOk {s : State} (h : CoreInv s) : BankOk s.rotors := h.rotors

/-- A failed command sets an error code and STICKY together, and touches nothing else. -/
theorem CoreInv.failed {s : State} (h : CoreInv s) (e : ErrCode) : CoreInv (s.failed e) :=
  ⟨h.keyCache, h.rotors, (code_range e).2, fun _ => rfl⟩

/-- A successful command clears ERR, so only the subkey cache and the rotors remain to be looked at. -/
theorem coreInv_succeeded {s : State} (hkey : s.keyValid = true → s.sk = keySchedule fipsTables s.key)
    (hrotors : BankOk s.rotors) : CoreInv s.succeeded :=
  ⟨hkey, hrotors, Nat.zero_le 7, fun hne => absurd rfl hne⟩

/-- Every way a command can end keeps the invariant. -/
theorem Ran.coreInv {i : Instr} {s t : State} (hr : Ran i s t) (h : CoreInv s) : CoreInv t := by
  cases hr with
  | nop | encryptBlock | decryptBlock | stage | encodeOther => exact coreInv_succeeded h.keyCache h.rotors
  | keySchedule | keyGenerate => exact coreInv_succeeded (fun _ => rfl) h.rotors
  | configure _ _ _ _ r n p _ _ _ hw =>
    exact coreInv_succeeded h.keyCache (h.bankOk.set r (rotorOk_configured _ _ n p hw))
  | setPositions _ _ _ _ p0 p1 p2 => exact coreInv_succeeded h.keyCache (h.bankOk.atPositions p0 p1 p2)
  | rotorReset => exact coreInv_succeeded h.keyCache h.bankOk.atInit
  | encodeLetter => exact coreInv_succeeded h.keyCache h.bankOk.stepAll
  | noKey | stageBadIndex | stageBadLetter | configureBadArgument | configureBadWiring | setPositionsBad
  | encodeUnconfigured | encodeReject => exact h.failed _

/-- A word on CMD keeps the invariant, whatever it decodes to. -/
theorem CoreInv.issueCommand {w : Word} {s t : State} (h : CoreInv s) (hi : issueCommand w s = .next t) : CoreInv t := by
  obtain ⟨i, -, hr⟩ | ⟨-, rfl⟩ | ⟨-, rfl⟩ := issueCommand_cases hi
  · exact hr.coreInv h
  · exact h.failed _
  · exact h.failed _

/-- A write to KEY clears KEY_VALID, and no other plain store reaches what the invariant speaks of (10_state.md R24). -/
theorem CoreInv.writeReg {s : State} (h : CoreInv s) (r : WindowReg) (v : Word) : CoreInv (writeReg r v s) := by
  cases r with
  | keyHi | keyLo => exact ⟨fun hv => Bool.noConfusion hv, h.rotors, h.errLegal, h.stickyAfterError⟩
  | dataHi | dataLo => exact ⟨h.keyCache, h.rotors, h.errLegal, h.stickyAfterError⟩
  | id | status | cmd | resultHi | resultLo | charOut | rotorPos | rotorInit | rotorNotch | reserved => exact h

theorem coreInv_applyReset (s : State) : CoreInv (applyReset s) :=
  ⟨fun hv => Bool.noConfusion hv, bankOk_reset, Nat.zero_le 7, fun hne => absurd rfl hne⟩

/-- Every host event that completes keeps the invariant. -/
theorem CoreInv.serve {e : HostEvent} {s t : State} (h : CoreInv s) (hs : serve e s = .next t) : CoreInv t := by
  obtain ⟨off, -, -, rfl⟩ | ⟨off, w, -, -, -, hi⟩ | ⟨off, w, -, -, -, rfl⟩ | ⟨-, rfl⟩ := serve_cases hs
  · exact ⟨h.keyCache, h.rotors, h.errLegal, h.stickyAfterError⟩
  · exact h.issueCommand hi
  · exact h.writeReg _ w
  · exact coreInv_applyReset s

/-! ### The pending accesses -/

/-- No command touches the host's pending accesses. -/
theorem Ran.pending_eq {i : Instr} {s t : State} (hr : Ran i s t) : t.pending = s.pending := by
  cases hr <;> rfl

theorem issueCommand_pending {w : Word} {s t : State} (h : issueCommand w s = .next t) : t.pending = s.pending := by
  obtain ⟨i, -, hr⟩ | ⟨-, rfl⟩ | ⟨-, rfl⟩ := issueCommand_cases h
  · exact hr.pending_eq
  · rfl
  · rfl

@[simp] theorem writeReg_pending (r : WindowReg) (v : Word) (s : State) : (writeReg r v s).pending = s.pending := by
  cases r <;> rfl

/-- Serving an event leaves the accesses after it as they were (20_memory.md R70). -/
theorem serve_pending {e : HostEvent} {s t : State} (h : serve e s = .next t) : t.pending = s.pending := by
  obtain ⟨off, -, -, rfl⟩ | ⟨off, w, -, -, -, hi⟩ | ⟨off, w, -, -, -, rfl⟩ | ⟨-, rfl⟩ := serve_cases h
  · rfl
  · exact issueCommand_pending hi
  · exact writeReg_pending ..
  · rfl

/-! ### Progress -/

/-- No word on CMD stops the core (60_exceptions.md R300). -/
theorem issueCommand_completes (w : Word) (s : State) : ∃ t, issueCommand w s = .next t := by
  unfold issueCommand
  split
  · next i _ =>
    obtain ⟨t, ht, -⟩ := exec_ran i s
    exact ⟨t, ht⟩
  · exact ⟨_, rfl⟩
  · exact ⟨_, rfl⟩

theorem busWrite_completes (off : Nat) (v : Word) (s : State) : ∃ t, busWrite off v s = .next t := by
  by_cases hc : windowReg off = .cmd
  · obtain ⟨t, ht⟩ := issueCommand_completes v s
    exact ⟨t, by rw [busWrite, hc]; exact ht⟩
  · exact ⟨_, busWrite_of_ne_cmd v s hc⟩

/-- An event inside the interface contract completes, in every state (20_memory.md R63). -/
theorem serve_completes {e : HostEvent} (he : e.legal = true) (s : State) : ∃ t, serve e s = .next t := by
  cases e with
  | read off =>
    have hoff : accessRefusal off = none := accessRefusal_eq_none.mpr (of_decide_eq_true he)
    exact ⟨s.returning (busRead off s), by simp only [serve, hoff]⟩
  | write off v =>
    have hoff : accessRefusal off = none := accessRefusal_eq_none.mpr (of_decide_eq_true he)
    obtain ⟨t, ht⟩ := busWrite_completes off v s
    exact ⟨t, by simp only [serve, hoff, ht]⟩
  | otherWidth bits off => exact Bool.noConfusion he
  | reset => exact ⟨applyReset s, rfl⟩

/-! ### Steps and runs -/

/-- With no access pending the core idles (70_reset_and_hazards.md R341). -/
theorem step_idle {s : State} (hp : s.pending = []) : step s = .next s := by
  unfold step
  rw [hp]

/-- A step takes the oldest pending event off the list and serves it (20_memory.md R70). -/
theorem step_serves {s : State} {e : HostEvent} {rest : List HostEvent} (hp : s.pending = e :: rest) :
    step s = serve e { s with pending := rest } := by
  unfold step
  rw [hp]

/-- The accesses still to be performed are no part of the invariant. -/
theorem CoreInv.withPending {s : State} (h : CoreInv s) (rest : List HostEvent) :
    CoreInv { s with pending := rest } :=
  ⟨h.keyCache, h.rotors, h.errLegal, h.stickyAfterError⟩

/-- A safe state steps, and to a safe state. -/
theorem Safe.step {s : State} (h : Safe s) : ∃ t, step s = .next t ∧ Safe t := by
  obtain ⟨hinv, hlegal⟩ := h
  cases hp : s.pending with
  | nil => exact ⟨s, step_idle hp, hinv, hlegal⟩
  | cons e rest =>
    rw [hp, List.forall_mem_cons] at hlegal
    obtain ⟨he, hrest⟩ := hlegal
    obtain ⟨t, ht⟩ := serve_completes he { s with pending := rest }
    have hpending : t.pending = rest := serve_pending ht
    refine ⟨t, (step_serves hp).trans ht, (hinv.withPending rest).serve ht, ?_⟩
    rwa [hpending]

/-- Settles O48, by induction on the number of steps: each step from a safe state completes in one (`Safe.step`). -/
theorem contractRunsNeverStop : Obligations.ContractRunsNeverStop := by
  intro n
  induction n with
  | zero => exact fun s hs => ⟨s, rfl, hs⟩
  | succ n ih =>
    intro s hs
    obtain ⟨t, hstep, ht⟩ := hs.step
    rw [run_succ_of_step hstep]
    exact ih t ht

end Sys2Proof.Machine
end

section
/-! SUPPORT. More of what a command, a bus event and a step can do: the word a decoded command came from, the converse of
`exec_ran`, how ERR, STICKY and KEY_VALID come out of a command and of a store, and one equation for each kind of bus
access in the window. -/

namespace Sys2Proof

/-- A row with reserved fields answers its command exactly when they are zero (30_encoding.md R94). -/
theorem ifReservedZero_eq_command {z : Bool} {i j : Instr} : ifReservedZero z i = .command j ↔ z = true ∧ i = j := by
  cases z <;> simp [ifReservedZero]

/-- A word with the four fields of a command word is that word (30_encoding.md R91). -/
theorem commandWord_eq_of_fields {w : Word} {opc a b c : Byte} (ho : (fieldOPC w).toNat = opc.toNat) (ha : fieldA w = a)
    (hb : fieldB w = b) (hc : fieldC w = c) : commandWord opc a b c = w := by
  rw [← BitVec.eq_of_toNat_eq ho, ← ha, ← hb, ← hc, commandWord_fields]

/-- A word that decodes to a command is that command's word (30_encoding.md R93, R94). -/
theorem encode_of_decodeWord {w : Word} {i : Instr} (h : decodeWord w = .command i) : encode i = w := by
  unfold decodeWord at h
  split at h <;>
    simp only [ifReservedZero_eq_command, Bool.and_eq_true, beq_iff_eq, Decoded.command.injEq, reduceCtorEq] at h
  -- By the fields a row reserves: C (ROTOR_STAGE_WIRING), none (the next two rows), B and C (ROTOR_ENCODE_CHAR), all.
  case h_6 hopc =>
    obtain ⟨hc, rfl⟩ := h
    exact commandWord_eq_of_fields hopc rfl rfl hc
  case h_7 hopc | h_8 hopc =>
    subst h
    exact commandWord_eq_of_fields hopc rfl rfl rfl
  case h_10 hopc =>
    obtain ⟨⟨hb, hc⟩, rfl⟩ := h
    exact commandWord_eq_of_fields hopc rfl hb hc
  all_goals
    obtain ⟨⟨⟨ha, hb⟩, hc⟩, rfl⟩ := h
    exact commandWord_eq_of_fields ‹_› ha hb hc

end Sys2Proof

namespace Sys2Proof.Machine

/-- `Ran` lists only what the command answers: with `exec_ran`, it is the command's meaning. -/
theorem Ran.exec_eq {i : Instr} {s t : State} (hr : Ran i s t) : exec i s = .next t := by
  cases hr with
  | nop | keySchedule | keyGenerate | rotorReset => rfl
  | encryptBlock _ h | decryptBlock _ h => exact if_pos h
  | noKey _ _ hi h =>
    have hn : ¬ s.keyValid = true := by simp [h]
    rcases hi with rfl | rfl
    · exact if_neg hn
    · exact if_neg hn
  | stage _ _ _ _ _ ha hb | stageBadLetter _ _ _ _ ha hb =>
    simp only [exec, execRotorStageWiring, ha, hb, succeed_eq, fail_eq]
  | stageBadIndex _ _ _ ha => simp only [exec, execRotorStageWiring, ha, fail_eq]
  | configure _ _ _ _ _ _ _ ha hb hc hw => simp only [exec, execRotorConfigure, ha, hb, hc, if_pos hw, succeed_eq]
  | configureBadWiring _ _ _ _ _ _ _ ha hb hc hw => simp [exec, execRotorConfigure, ha, hb, hc, hw]
  | configureBadArgument _ _ _ _ h =>
    simp only [exec, execRotorConfigure]
    split
    · simp_all
    · rfl
  | setPositions _ _ _ _ _ _ _ ha hb hc => simp only [exec, execRotorSetPositions, ha, hb, hc, succeed_eq]
  | setPositionsBad _ _ _ _ h =>
    simp only [exec, execRotorSetPositions]
    split
    · simp_all
    · rfl
  | encodeUnconfigured _ _ h => simp [exec, execRotorEncodeChar, h]
  | encodeReject _ _ h hc | encodeOther _ _ h hc | encodeLetter _ _ _ h hc => simp [exec, execRotorEncodeChar, h, hc]

/-- A command fails with a code, or succeeds: then ERR is OK, and STICKY is kept (00_scope.md R11). -/
theorem Ran.failed_or_ok {i : Instr} {s t : State} (hr : Ran i s t) :
    (∃ e, t = s.failed e) ∨ (t.err = okCode ∧ t.sticky = s.sticky) := by
  cases hr with
  | noKey | stageBadIndex | stageBadLetter | configureBadArgument | configureBadWiring | setPositionsBad
  | encodeUnconfigured | encodeReject => exact .inl ⟨_, rfl⟩
  | nop | keySchedule | keyGenerate | encryptBlock | decryptBlock | stage | configure | setPositions | rotorReset
  | encodeOther | encodeLetter => exact .inr ⟨rfl, rfl⟩

/-- A word on CMD fails with a code, or succeeds: then ERR is OK, and STICKY is kept (60_exceptions.md R300). -/
theorem issueCommand_failed_or_ok {w : Word} {s t : State} (h : issueCommand w s = .next t) :
    (∃ e, t = s.failed e) ∨ (t.err = okCode ∧ t.sticky = s.sticky) := by
  obtain ⟨i, -, hr⟩ | ⟨-, rfl⟩ | ⟨-, rfl⟩ := issueCommand_cases h
  · exact hr.failed_or_ok
  · exact .inl ⟨_, rfl⟩
  · exact .inl ⟨_, rfl⟩

/-- Only the two commands that schedule a key touch KEY_VALID, and they set it (10_state.md R24). -/
theorem Ran.keyValid_eq {i : Instr} {s t : State} (hr : Ran i s t) :
    t.keyValid = s.keyValid ∨ ((i = .keySchedule ∨ i = .keyGenerate) ∧ t.keyValid = true) := by
  cases hr with
  | keySchedule => exact .inr ⟨.inl rfl, rfl⟩
  | keyGenerate => exact .inr ⟨.inr rfl, rfl⟩
  | nop | encryptBlock | decryptBlock | noKey | stage | stageBadIndex | stageBadLetter | configure
  | configureBadArgument | configureBadWiring | setPositions | setPositionsBad | rotorReset | encodeUnconfigured
  | encodeReject | encodeOther | encodeLetter => exact .inl rfl

/-- A word on CMD touches KEY_VALID only if it is KEY_SCHEDULE or KEY_GENERATE, and these set it (10_state.md R24). -/
theorem issueCommand_keyValid {w : Word} {s t : State} (h : issueCommand w s = .next t) :
    t.keyValid = s.keyValid ∨ ((w = 0x00000001 ∨ w = 0x00000002) ∧ t.keyValid = true) := by
  obtain ⟨i, hd, hr⟩ | ⟨-, rfl⟩ | ⟨-, rfl⟩ := issueCommand_cases h
  · refine hr.keyValid_eq.imp_right fun ⟨hi, hv⟩ => ⟨?_, hv⟩
    rw [← encode_of_decodeWord hd]
    obtain rfl | rfl := hi
    · exact .inl rfl
    · exact .inr rfl
  · exact .inl rfl
  · exact .inl rfl

@[simp] theorem writeReg_sticky (r : WindowReg) (v : Word) (s : State) : (writeReg r v s).sticky = s.sticky := by
  cases r <;> rfl

/-- A store keeps KEY_VALID, but to a half of KEY, where it clears it (43_control.md R252). -/
theorem writeReg_keyValid (r : WindowReg) (v : Word) (s : State) :
    (writeReg r v s).keyValid = s.keyValid ∨ ((r = .keyHi ∨ r = .keyLo) ∧ (writeReg r v s).keyValid = false) := by
  cases r with
  | keyHi => exact .inr ⟨.inl rfl, rfl⟩
  | keyLo => exact .inr ⟨.inr rfl, rfl⟩
  | id | status | cmd | dataHi | dataLo | resultHi | resultLo | charOut | rotorPos | rotorInit | rotorNotch
  | reserved => exact .inl rfl

/-- A read at a defined offset returns the register's value, and changes nothing (43_control.md R253). -/
theorem step_read {off : Nat} (hoff : off % 4 = 0 ∧ off ≤ 0x7C) (s : State) (rest : List HostEvent) :
    step (s.onBus (.read off) rest) = .next { s with pending := rest, returned := s.returned ++ [busRead off s] } := by
  have hb : busRead off { s with pending := rest } = busRead off s := by
    unfold busRead
    cases windowReg off <;> rfl
  simp only [step_onBus, serve, accessRefusal_eq_none.mpr hoff, hb, State.returning]

/-- A write at a defined offset other than CMD stores to that register (43_control.md R252). -/
theorem step_write {off : Nat} (hoff : off % 4 = 0 ∧ off ≤ 0x7C) (hcmd : off ≠ 0x08) (v : Word) (s : State)
    (rest : List HostEvent) :
    step (s.onBus (.write off v) rest) = .next (writeReg (windowReg off) v { s with pending := rest }) := by
  simp only [step_onBus, serve, accessRefusal_eq_none.mpr hoff]
  exact busWrite_of_ne_cmd _ _ fun h => hcmd (windowReg_eq_cmd.mp h)

/-- A write to CMD issues the word (10_state.md R41). -/
theorem step_write_cmd (w : Word) (s : State) (rest : List HostEvent) :
    step (s.onBus (.write 0x08 w) rest) = issueCommand w { s with pending := rest } := rfl

end Sys2Proof.Machine
end

section
/-! PROOF. The core invariant through one step (10_state.md R24, R29, R30, R39, R40). -/

namespace Sys2Proof.Machine

/-- Settles O47: an idle step keeps the state, and serving an event keeps the invariant (`CoreInv.serve`). -/
theorem stepKeepsInvariant : Obligations.StepKeepsInvariant := by
  intro s t hinv hstep
  cases hp : s.pending with
  | nil =>
    rw [step_idle hp] at hstep
    cases hstep
    exact hinv
  | cons e rest =>
    rw [step_serves hp] at hstep
    exact (hinv.withPending rest).serve hstep

end Sys2Proof.Machine
end

section
/-! PROOF. The values that reset leaves unspecified are unobservable (10_state.md R25, R29, R30; 93_implementation_defined.md
I1). The one idea: a meaning reads SK only while KEY_VALID = 1, and WIRING and REV only of configured rotors, where the two
states hold the same; a command that makes them valid overwrites them whole. -/

namespace Sys2Proof.Machine

/-! ### Agreeing rotors -/

/-- Two rotors that differ at most in WIRING and REV, and there only while neither is configured: the rotor clauses of
`AgreeObservably`, said of one rotor (10_state.md R29, R30). -/
structure RotorAgree (R Q : Rotor) : Prop where
  notch : R.notch = Q.notch
  pos : R.pos = Q.pos
  init : R.init = Q.init
  cfg : R.cfg = Q.cfg
  wiring : R.cfg = true → R.wiring = Q.wiring
  rev : R.cfg = true → R.rev = Q.rev

/-- Two banks that agree rotor by rotor. -/
def BankAgree (rs qs : Vector Rotor 3) : Prop := ∀ r : RotorNo, RotorAgree rs[r] qs[r]

theorem RotorAgree.refl (R : Rotor) : RotorAgree R R := ⟨rfl, rfl, rfl, rfl, fun _ => rfl, fun _ => rfl⟩

/-- Configured rotors that agree are equal. -/
theorem RotorAgree.eq_of_cfg {R Q : Rotor} (h : RotorAgree R Q) (hcfg : R.cfg = true) : R = Q := by
  obtain ⟨hnotch, hpos, hinit, hcfg', hwiring, hrev⟩ := h
  cases R
  cases Q
  simp_all

/-- A position written to agreeing rotors. -/
theorem RotorAgree.at {R Q : Rotor} (h : RotorAgree R Q) (p : Letter) : RotorAgree (R.at p) (Q.at p) :=
  { h with pos := rfl }

/-- ROTOR_CONFIGURE writes every field, so nothing of the rotor it overwrites remains (42_rotor_engine.md R221). -/
theorem configured_any (R Q : Rotor) {w : Vector Letter 26} (n p : Letter) (hw : isBijection w = true) :
    configured R w n p = configured Q w n p := by
  simp only [configured, reverseInto_any R.rev Q.rev w ((isBijection_iff w).mp hw)]

/-- Banks of configured rotors that agree are equal. -/
theorem BankAgree.eq_of_cfg {rs qs : Vector Rotor 3} (h : BankAgree rs qs) (hcfg : ∀ r : RotorNo, rs[r].cfg = true) :
    rs = qs := by
  apply Vector.ext
  intro k hk
  exact (h ⟨k, hk⟩).eq_of_cfg (hcfg ⟨k, hk⟩)

theorem BankAgree.of_eq {rs qs : Vector Rotor 3} (h : rs = qs) : BankAgree rs qs := fun r => by
  rw [h]
  exact .refl _

theorem BankAgree.set {rs qs : Vector Rotor 3} {R Q : Rotor} (h : BankAgree rs qs) (r : RotorNo) (hR : R = Q) :
    BankAgree (rs.set r R) (qs.set r Q) := fun q => by
  rw [set_rotor_get, set_rotor_get, hR]
  split
  · exact .refl Q
  · exact h q

theorem BankAgree.atPositions {rs qs : Vector Rotor 3} (h : BankAgree rs qs) (p0 p1 p2 : Letter) :
    BankAgree (atPositions rs p0 p1 p2) (atPositions qs p0 p1 p2) := fun r => by
  rw [atPositions_get, atPositions_get]
  exact (h r).at _

theorem BankAgree.atInit {rs qs : Vector Rotor 3} (h : BankAgree rs qs) : BankAgree (atInit rs) (atInit qs) := fun r => by
  rw [atInit_get, atInit_get, (h r).init]
  exact (h r).at _

/-! ### Agreeing states -/

/-- A rotor word shows one field of each rotor (10_state.md R43 to R45). -/
theorem rotorWord_congr {field : Rotor → Letter} {rs qs : Vector Rotor 3}
    (h : ∀ r : RotorNo, field rs[r] = field qs[r]) : rotorWord field rs = rotorWord field qs := by
  have h0 : field rs[0] = field qs[0] := h 0
  have h1 : field rs[1] = field qs[1] := h 1
  have h2 : field rs[2] = field qs[2] := h 2
  simp only [rotorWord, h0, h1, h2]


namespace AgreeObservably

variable {s t : State}

theorem bank (h : AgreeObservably s t) : BankAgree s.rotors t.rotors := fun r =>
  ⟨h.notch r, h.pos r, h.init r, h.cfg r, h.wiring r, h.rev r⟩

/-- Agreeing banks written to agreeing states. -/
theorem withRotors {rs qs : Vector Rotor 3} (h : AgreeObservably s t) (hb : BankAgree rs qs) :
    AgreeObservably { s with rotors := rs } { t with rotors := qs } :=
  { h with
    notch := fun r => (hb r).notch, pos := fun r => (hb r).pos, init := fun r => (hb r).init, cfg := fun r => (hb r).cfg
    wiring := fun r => (hb r).wiring, rev := fun r => (hb r).rev }

theorem failed (h : AgreeObservably s t) (e : ErrCode) : AgreeObservably (s.failed e) (t.failed e) :=
  { h with err := rfl, sticky := rfl }

theorem succeeded (h : AgreeObservably s t) : AgreeObservably s.succeeded t.succeeded := { h with err := rfl }

/-- Scheduling one key makes KEY, SK and KEY_VALID the same, whatever SK held (41_des_engine.md R169). -/
theorem withScheduled {k l : BitVec 64} (h : AgreeObservably s t) (hk : k = l) :
    AgreeObservably (s.withScheduled k) (t.withScheduled l) :=
  { h with key := hk, keyValid := rfl, sk := fun _ => congrArg (keySchedule fipsTables) hk }

theorem afterDraw (h : AgreeObservably s t) : AgreeObservably s.afterDraw t.afterDraw :=
  { h with draws := congrArg (· + 1) h.draws }

theorem withResult {b c : BitVec 64} (h : AgreeObservably s t) (hb : b = c) :
    AgreeObservably { s with result := b } { t with result := c } := { h with result := hb }

theorem withWstage {v w : Vector Letter 26} (h : AgreeObservably s t) (hw : v = w) :
    AgreeObservably { s with wstage := v } { t with wstage := w } := { h with wstage := hw }

theorem withCharOut {b c : Byte} (h : AgreeObservably s t) (hb : b = c) :
    AgreeObservably { s with charOut := b } { t with charOut := c } := { h with charOut := hb }

theorem withPending (h : AgreeObservably s t) (rest : List HostEvent) :
    AgreeObservably { s with pending := rest } { t with pending := rest } := { h with pending := rfl }

theorem returning {v w : Word} (h : AgreeObservably s t) (hv : v = w) :
    AgreeObservably (s.returning v) (t.returning w) :=
  { h with returned := congrArg₂ (· ++ [·]) h.returned hv }

theorem applyReset (h : AgreeObservably s t) : AgreeObservably (applyReset s) (applyReset t) :=
  { h with
    key := rfl, keyValid := rfl, sk := fun _ => rfl, data := rfl, result := rfl
    notch := fun _ => rfl, pos := fun _ => rfl, init := fun _ => rfl, cfg := fun _ => rfl
    wiring := fun _ _ => rfl, rev := fun _ _ => rfl
    wstage := rfl, charOut := rfl, err := rfl, sticky := rfl }

theorem allConfigured_eq (h : AgreeObservably s t) : allConfigured s = allConfigured t := by
  simp only [allConfigured, h.cfg]

/-- Where ROTOR_ENCODE_CHAR passes its readiness check, the two banks are equal (42_rotor_engine.md R224). -/
theorem rotors_eq (h : AgreeObservably s t) (hcfg : allConfigured s = true) : s.rotors = t.rotors := by
  simp only [allConfigured, Bool.and_eq_true] at hcfg
  obtain ⟨⟨h0, h1⟩, h2⟩ := hcfg
  exact h.bank.eq_of_cfg fun r => by
    fin_cases r
    · exact h0
    · exact h1
    · exact h2

/-! ### What the host reads and stores -/

theorem statusWord_eq (h : AgreeObservably s t) : statusWord s = statusWord t := by
  simp only [statusWord, h.err, h.sticky, h.cfg, h.keyValid]

/-- No register shows SK, WIRING or REV (43_control.md R253). -/
theorem readReg_eq (h : AgreeObservably s t) (r : WindowReg) : readReg r s = readReg r t := by
  cases r with
  | id | cmd | reserved => rfl
  | status => exact h.statusWord_eq
  | keyHi | keyLo => simp only [readReg, h.key]
  | dataHi | dataLo => simp only [readReg, h.data]
  | resultHi | resultLo => simp only [readReg, h.result]
  | charOut => simp only [readReg, h.charOut]
  | rotorPos => exact rotorWord_congr h.pos
  | rotorInit => exact rotorWord_congr h.init
  | rotorNotch => exact rotorWord_congr h.notch

/-- A write to KEY clears KEY_VALID, and no store reaches SK, WIRING or REV (43_control.md R252). -/
theorem writeReg (h : AgreeObservably s t) (r : WindowReg) (v : Word) :
    AgreeObservably (writeReg r v s) (writeReg r v t) := by
  cases r with
  | keyHi =>
    exact { h with key := congrArg (fun q => joinWords v (loWord q)) h.key, keyValid := rfl, sk := fun hv => Bool.noConfusion hv }
  | keyLo =>
    exact { h with key := congrArg (fun q => joinWords (hiWord q) v) h.key, keyValid := rfl, sk := fun hv => Bool.noConfusion hv }
  | dataHi => exact { h with data := congrArg (fun q => joinWords v (loWord q)) h.data }
  | dataLo => exact { h with data := congrArg (fun q => joinWords (hiWord q) v) h.data }
  | id | status | cmd | resultHi | resultLo | charOut | rotorPos | rotorInit | rotorNotch | reserved => exact h

end AgreeObservably

/-! ### Agreeing outcomes -/

/-- A command does on agreeing states the same thing: the second takes the same way of `Ran`, to a state that agrees. -/
theorem Ran.agree {i : Instr} {s s' t : State} (hr : Ran i s s') (h : AgreeObservably s t) :
    ∃ t', Ran i t t' ∧ AgreeObservably s' t' := by
  cases hr with
  | nop => exact ⟨_, .nop t, h.succeeded⟩
  | keySchedule => exact ⟨_, .keySchedule t, (h.withScheduled h.key).succeeded⟩
  | keyGenerate =>
    have hdrawn : drawn s = drawn t := congrArg Config.freeEntropy h.draws
    exact ⟨_, .keyGenerate t, (h.afterDraw.withScheduled hdrawn).succeeded⟩
  | encryptBlock _ hv =>
    exact ⟨_, .encryptBlock t (h.keyValid ▸ hv), (h.withResult (by rw [h.data, h.sk hv])).succeeded⟩
  | decryptBlock _ hv =>
    exact ⟨_, .decryptBlock t (h.keyValid ▸ hv), (h.withResult (by rw [h.data, h.sk hv])).succeeded⟩
  | noKey _ _ hi hv => exact ⟨_, .noKey i t hi (h.keyValid ▸ hv), h.failed _⟩
  | stage _ a b k v ha hb => exact ⟨_, .stage t a b k v ha hb, (h.withWstage (by rw [h.wstage])).succeeded⟩
  | stageBadIndex _ a b ha => exact ⟨_, .stageBadIndex t a b ha, h.failed _⟩
  | stageBadLetter _ a b k ha hb => exact ⟨_, .stageBadLetter t a b k ha hb, h.failed _⟩
  | configure _ a b c r n p ha hb hc hw =>
    have hR : configured s.rotors[r] s.wstage n p = configured t.rotors[r] t.wstage n p := by
      rw [configured_any _ t.rotors[r] n p hw, h.wstage]
    exact ⟨_, .configure t a b c r n p ha hb hc (h.wstage ▸ hw), (h.withRotors (h.bank.set r hR)).succeeded⟩
  | configureBadArgument _ a b c hbad => exact ⟨_, .configureBadArgument t a b c hbad, h.failed _⟩
  | configureBadWiring _ a b c r n p ha hb hc hw =>
    exact ⟨_, .configureBadWiring t a b c r n p ha hb hc (h.wstage ▸ hw), h.failed _⟩
  | setPositions _ a b c p0 p1 p2 ha hb hc =>
    exact ⟨_, .setPositions t a b c p0 p1 p2 ha hb hc, (h.withRotors (h.bank.atPositions p0 p1 p2)).succeeded⟩
  | setPositionsBad _ a b c hbad => exact ⟨_, .setPositionsBad t a b c hbad, h.failed _⟩
  | rotorReset => exact ⟨_, .rotorReset t, (h.withRotors h.bank.atInit).succeeded⟩
  | encodeUnconfigured _ c hcfg => exact ⟨_, .encodeUnconfigured t c (h.allConfigured_eq ▸ hcfg), h.failed _⟩
  | encodeReject _ c hcfg hc => exact ⟨_, .encodeReject t c (h.allConfigured_eq ▸ hcfg) hc, h.failed _⟩
  | encodeOther _ c hcfg hc => exact ⟨_, .encodeOther t c (h.allConfigured_eq ▸ hcfg) hc, (h.withCharOut rfl).succeeded⟩
  | encodeLetter _ c x hcfg hc =>
    have hstep : stepAll s.rotors = stepAll t.rotors := congrArg stepAll (h.rotors_eq hcfg)
    exact ⟨_, .encodeLetter t c x (h.allConfigured_eq ▸ hcfg) hc,
      ((h.withRotors (.of_eq hstep)).withCharOut (by rw [hstep])).succeeded⟩

/-- Two outcomes that no host can tell apart: next states that agree, or the same refusal. -/
def OutcomesAgree (a b : Result) : Prop :=
  (∃ s' t', a = .next s' ∧ b = .next t' ∧ AgreeObservably s' t') ∨ ∃ r, a = .refused r ∧ b = .refused r

theorem AgreeObservably.outcomes {s t : State} (h : AgreeObservably s t) : OutcomesAgree (.next s) (.next t) :=
  .inl ⟨s, t, rfl, rfl, h⟩

theorem AgreeObservably.exec {s t : State} (h : AgreeObservably s t) (i : Instr) : OutcomesAgree (exec i s) (exec i t) := by
  obtain ⟨s', hs', hr⟩ := exec_ran i s
  obtain ⟨t', hr', h'⟩ := hr.agree h
  exact .inl ⟨s', t', hs', hr'.exec_eq, h'⟩

theorem AgreeObservably.issueCommand {s t : State} (h : AgreeObservably s t) (w : Word) :
    OutcomesAgree (issueCommand w s) (issueCommand w t) := by
  unfold Machine.issueCommand
  split
  · exact h.exec _
  · exact (h.failed _).outcomes
  · exact (h.failed _).outcomes

theorem AgreeObservably.busWrite {s t : State} (h : AgreeObservably s t) (off : Nat) (v : Word) :
    OutcomesAgree (busWrite off v s) (busWrite off v t) := by
  by_cases hc : windowReg off = .cmd
  · simp only [Machine.busWrite, hc]
    exact h.issueCommand v
  · rw [busWrite_of_ne_cmd v s hc, busWrite_of_ne_cmd v t hc]
    exact (h.writeReg _ v).outcomes

/-- Every host event does the same on agreeing states: a refusal depends on the access alone (20_memory.md R63). -/
theorem AgreeObservably.serve {s t : State} (h : AgreeObservably s t) (e : HostEvent) :
    OutcomesAgree (serve e s) (serve e t) := by
  cases e with
  | read off =>
    simp only [Machine.serve]
    split
    · exact .inr ⟨_, rfl, rfl⟩
    · exact (h.returning (h.readReg_eq _)).outcomes
  | write off v =>
    simp only [Machine.serve]
    split
    · exact .inr ⟨_, rfl, rfl⟩
    · exact h.busWrite off v
  | otherWidth bits off => exact .inr ⟨_, rfl, rfl⟩
  | reset => exact h.applyReset.outcomes

/-- Settles O54: both states hold the same next event, and serving it does the same on both (`AgreeObservably.serve`). -/
theorem unspecifiedResetValuesUnobservable : Obligations.UnspecifiedResetValuesUnobservable := by
  intro s t h
  cases hp : s.pending with
  | nil =>
    rw [step_idle hp, step_idle (h.pending ▸ hp)]
    exact h.outcomes
  | cons e rest =>
    rw [step_serves hp, step_serves (h.pending ▸ hp)]
    exact (h.withPending rest).serve e

end Sys2Proof.Machine
end

section
/-! PROOF. STICKY and KEY_VALID through one step (10_state.md R24, R40). -/

namespace Sys2Proof.Machine

/-- Settles O49: a command fails and sets STICKY or keeps it, and no other event but reset touches it. -/
theorem onlyResetClearsSticky : Obligations.OnlyResetClearsSticky := by
  refine ⟨fun w s t h herr => ?_, fun s t e rest h hreset hs => ?_, fun s t rest h => ?_⟩
  · obtain ⟨e, rfl⟩ | ⟨hok, -⟩ := issueCommand_failed_or_ok h
    · rfl
    · exact absurd hok herr
  · obtain ⟨off, -, -, rfl⟩ | ⟨off, w, -, -, -, hi⟩ | ⟨off, w, -, -, -, rfl⟩ | ⟨he, -⟩ := serve_cases h
    · exact hs
    · obtain ⟨e, rfl⟩ | ⟨-, hsticky⟩ := issueCommand_failed_or_ok hi
      · rfl
      · exact hsticky.trans hs
    · exact (writeReg_sticky ..).trans hs
    · exact absurd he hreset
  · cases h
    rfl

/-- KEY_VALID through any host event: kept, set by the two words that schedule a key, or cleared by a KEY write or by
reset (10_state.md R24). -/
theorem serve_keyValid {e : HostEvent} {s t : State} (h : serve e s = .next t) :
    t.keyValid = s.keyValid ∨
    ((e = .write 0x08 0x00000001 ∨ e = .write 0x08 0x00000002) ∧ t.keyValid = true) ∨
    ((e = .reset ∨ ∃ v, e = .write 0x10 v ∨ e = .write 0x14 v) ∧ t.keyValid = false) := by
  obtain ⟨off, -, -, rfl⟩ | ⟨off, w, rfl, -, hcmd, hi⟩ | ⟨off, w, rfl, -, -, rfl⟩ | ⟨rfl, rfl⟩ := serve_cases h
  · exact .inl rfl
  · obtain rfl := windowReg_eq_cmd.mp hcmd
    refine (issueCommand_keyValid hi).imp_right fun ⟨hw, hv⟩ => .inl ⟨?_, hv⟩
    exact hw.imp (congrArg _) (congrArg _)
  · refine (writeReg_keyValid _ w s).imp_right fun ⟨hr, hv⟩ => .inr ⟨.inr ⟨w, ?_⟩, hv⟩
    refine hr.imp (fun h => ?_) fun h => ?_
    · rw [windowReg_eq_keyHi.mp h]
    · rw [windowReg_eq_keyLo.mp h]
  · exact .inr (.inr ⟨.inl rfl, rfl⟩)

/-- Settles O50, from what each host event does to KEY_VALID (`serve_keyValid`). -/
theorem keyValidChangesOnlyByKeyEvents : Obligations.KeyValidChangesOnlyByKeyEvents := by
  refine ⟨fun s t e rest h => ?_, ?_⟩
  · obtain hkept | ⟨he, hset⟩ | ⟨he, hcleared⟩ := serve_keyValid h
    · exact ⟨fun hs ht => absurd ((hkept.trans hs).symm.trans ht) Bool.false_ne_true,
        fun hs ht => absurd (ht.symm.trans (hkept.trans hs)) Bool.false_ne_true⟩
    · exact ⟨fun _ _ => he, fun _ ht => absurd (ht.symm.trans hset) Bool.false_ne_true⟩
    · exact ⟨fun _ ht => absurd (hcleared.symm.trans ht) Bool.false_ne_true, fun _ _ => he⟩
  · rintro s off v rest (rfl | rfl)
    · exact ⟨_, step_write (by decide) (by decide) v s rest, rfl⟩
    · exact ⟨_, step_write (by decide) (by decide) v s rest, rfl⟩

end Sys2Proof.Machine
end

section
/-! PROOF. The register window, register by register (10_state.md R36 to R45). -/

namespace Sys2Proof.Machine

/-! ### STATUS -/

/-- A flag shifted to bit `k` of a register word stands in bit `k` alone. -/
theorem getLsbD_bitWord_shiftLeft (b : Bool) {k : Nat} (hk : k < 32) (i : Nat) :
    (bitWord b <<< k).getLsbD i = (b && decide (i = k)) := by
  rw [BitVec.getLsbD_shiftLeft, getLsbD_bitWord]
  by_cases hi : i = k
  · simp [hi, hk]
  · have hne : i < k ∨ i - k ≠ 0 := by omega
    obtain h | h := hne <;> simp [hi, h]

/-- A byte shifted to bits 15:8 of a register word. -/
theorem getLsbD_byte_shiftLeft (e : Byte) (i : Nat) :
    (e.setWidth 32 <<< 8).getLsbD i = (decide (8 ≤ i) && e.getLsbD (i - 8)) := by
  rw [BitVec.getLsbD_shiftLeft, BitVec.getLsbD_setWidth]
  by_cases hi : i < 16
  · have h1 : i < 32 := by omega
    have h2 : i - 8 < 32 := by omega
    simp only [h1, h2, ← Nat.not_lt, decide_not, decide_true, Bool.true_and]
  · simp only [BitVec.getLsbD_of_ge e (i - 8) (by omega), Bool.and_false]

/-- STATUS bit by bit (10_state.md R38). -/
theorem getLsbD_statusWord (s : State) (i : Nat) :
    (statusWord s).getLsbD i =
      (decide (8 ≤ i) && s.err.getLsbD (i - 8) || s.sticky && decide (i = 4) || s.rotors[2].cfg && decide (i = 3) ||
        s.rotors[1].cfg && decide (i = 2) || s.rotors[0].cfg && decide (i = 1) || s.keyValid && decide (i = 0)) := by
  simp only [statusWord, BitVec.getLsbD_or, getLsbD_byte_shiftLeft, getLsbD_bitWord, getLsbD_bitWord_shiftLeft,
    Nat.reduceLT]
  rfl

/-- A field of a word, from its bits. -/
theorem extractLsb'_eq_of_getLsbD {n start len : Nat} {v : BitVec n} {x : BitVec len}
    (h : ∀ i < len, v.getLsbD (start + i) = x.getLsbD i) : v.extractLsb' start len = x :=
  BitVec.eq_of_getLsbD_eq fun i hi => by simp [hi, h i hi]

/-- The fields of STATUS above bit 4: reserved, ERR, reserved (10_state.md R38). -/
theorem statusWord_upper_fields (s : State) :
    (statusWord s).extractLsb' 5 3 = 0 ∧ (statusWord s).extractLsb' 8 8 = s.err ∧
    (statusWord s).extractLsb' 16 16 = 0 := by
  refine ⟨extractLsb'_eq_of_getLsbD fun i hi => ?_, extractLsb'_eq_of_getLsbD fun i hi => ?_,
    extractLsb'_eq_of_getLsbD fun i hi => ?_⟩
  · have h8 : ¬ 8 ≤ 5 + i := by omega
    have h4 : 5 + i ≠ 4 ∧ 5 + i ≠ 3 ∧ 5 + i ≠ 2 ∧ 5 + i ≠ 1 ∧ 5 + i ≠ 0 := by omega
    simp [getLsbD_statusWord, h8, h4]
  · have h4 : 8 + i ≠ 4 ∧ 8 + i ≠ 3 ∧ 8 + i ≠ 2 ∧ 8 + i ≠ 1 ∧ 8 + i ≠ 0 := by omega
    simp [getLsbD_statusWord, h4]
  · have h4 : 16 + i ≠ 4 ∧ 16 + i ≠ 3 ∧ 16 + i ≠ 2 ∧ 16 + i ≠ 1 ∧ 16 + i ≠ 0 := by omega
    simp [getLsbD_statusWord, h4, BitVec.getLsbD_of_ge s.err (16 + i - 8) (by omega)]

/-- The six flags of STATUS (10_state.md R38). -/
theorem statusWord_flags (s : State) :
    (statusWord s).getLsbD 0 = s.keyValid ∧ (statusWord s).getLsbD 1 = s.rotors[0].cfg ∧
    (statusWord s).getLsbD 2 = s.rotors[1].cfg ∧ (statusWord s).getLsbD 3 = s.rotors[2].cfg ∧
    (statusWord s).getLsbD 4 = s.sticky := by
  simp only [getLsbD_statusWord]
  simp

/-- Settles O10: a read returns `statusWord`, whose fields are known, and a write stores nothing. -/
theorem statusFields : Obligations.StatusFields := by
  refine ⟨fun s rest => ⟨statusWord s, step_read (by decide) s rest, ?_⟩,
    fun s v rest => step_write (by decide) (by decide) v s rest, ⟨_, step_read (by decide) _ [], rfl⟩⟩
  obtain ⟨hkeyValid, hcfg0, hcfg1, hcfg2, hsticky⟩ := statusWord_flags s
  exact ⟨hkeyValid, hcfg0, hcfg1, hcfg2, hsticky, statusWord_upper_fields s⟩

/-! ### The rotor words -/

/-- Three bytes in the byte lanes of a register word, as a number. -/
theorem toNat_byteLanes {a b c : Nat} (ha : a < 256) (hb : b < 256) (hc : c < 256) :
    (BitVec.ofNat 32 c <<< 16 ||| BitVec.ofNat 32 b <<< 8 ||| BitVec.ofNat 32 a).toNat = c * 65536 + b * 256 + a := by
  have hcb : c <<< 16 ||| b <<< 8 = (c * 256 + b) <<< 8 := by
    rw [← Nat.shiftLeft_add_eq_or_of_lt (by omega), Nat.shiftLeft_eq, Nat.shiftLeft_eq, Nat.shiftLeft_eq]
    omega
  calc (BitVec.ofNat 32 c <<< 16 ||| BitVec.ofNat 32 b <<< 8 ||| BitVec.ofNat 32 a).toNat
      = c <<< 16 ||| b <<< 8 ||| a := by
        simp only [BitVec.toNat_or, BitVec.toNat_shiftLeft, BitVec.toNat_ofNat, Nat.shiftLeft_eq]
        congr 1
        · congr 1 <;> omega
        · omega
    _ = (c * 256 + b) <<< 8 + a := by rw [hcb, Nat.shiftLeft_add_eq_or_of_lt ha]
    _ = c * 65536 + b * 256 + a := by
      rw [Nat.shiftLeft_eq]
      omega

/-- Three letters in three byte lanes, as a number (10_state.md R43). -/
theorem toNat_rotorWord (field : Rotor → Letter) (rs : Vector Rotor 3) :
    (rotorWord field rs).toNat = (field rs[2]).val * 65536 + (field rs[1]).val * 256 + (field rs[0]).val :=
  toNat_byteLanes (by omega) (by omega) (by omega)

/-- The three fields of a rotor word (10_state.md R43 to R45). -/
theorem rotorWord_fields (field : Rotor → Letter) (rs : Vector Rotor 3) :
    ((rotorWord field rs).extractLsb' 0 5).toNat = (field rs[0]).val ∧
    ((rotorWord field rs).extractLsb' 8 5).toNat = (field rs[1]).val ∧
    ((rotorWord field rs).extractLsb' 16 5).toNat = (field rs[2]).val := by
  have h0 := (field rs[0]).isLt
  have h1 := (field rs[1]).isLt
  have h2 := (field rs[2]).isLt
  simp only [BitVec.extractLsb'_toNat, toNat_rotorWord, Nat.shiftRight_eq_div_pow]
  omega

/-- Settles O11: a read of the three offsets returns `rotorWord` of the field, and no store reaches a rotor. -/
theorem rotorWordFields : Obligations.RotorWordFields := by
  intro off field h
  obtain ⟨hoff, hcmd, hread, hwrite, hreset⟩ : (off % 4 = 0 ∧ off ≤ 0x7C) ∧ off ≠ 0x08 ∧
      (∀ s, busRead off s = rotorWord field s.rotors) ∧ (∀ v s, writeReg (windowReg off) v s = s) ∧
      busRead off State.reset = 0 := by
    obtain ⟨rfl, rfl⟩ | ⟨rfl, rfl⟩ | ⟨rfl, rfl⟩ := h <;>
      exact ⟨by decide, by decide, fun _ => rfl, fun _ _ => rfl, rfl⟩
  refine ⟨fun s rest => ⟨rotorWord field s.rotors, ?_, ?_⟩, fun s v rest => ?_, _, step_read hoff _ [], ?_⟩
  · rw [step_read hoff, hread]
  · obtain ⟨h0, h1, h2⟩ := rotorWord_fields field s.rotors
    exact ⟨h0, h1, h2, toNat_rotorWord field s.rotors⟩
  · rw [step_write hoff hcmd, hwrite]
  · exact congrArg (fun v => [v]) hreset

/-! ### KEY, DATA and RESULT -/

/-- Elements 1..32 of `hi ‖ lo` are those of `hi` (20_memory.md R66). -/
theorem elemAt_joinWords_hi (hi lo : Word) (i : Nat) (h1 : 1 ≤ i) (h2 : i ≤ 32) :
    elemAt (joinWords hi lo) i = elemAt hi i := by
  rw [joinWords, elemAt_append _ _ _ h1, if_pos h2]

/-- Elements 33..64 of `hi ‖ lo` are those of `lo` (20_memory.md R66). -/
theorem elemAt_joinWords_lo (hi lo : Word) (i : Nat) (h1 : 33 ≤ i) :
    elemAt (joinWords hi lo) i = elemAt lo (i - 32) := by
  rw [joinWords, elemAt_append _ _ _ (by omega), if_neg (by omega)]

/-- A store to the HI half takes elements 1..32 from the word and keeps 33..64 (10_state.md R42). -/
theorem elemAt_storeHi (w : Word) (q : BitVec 64) :
    (∀ i, 1 ≤ i → i ≤ 32 → elemAt (joinWords w (loWord q)) i = elemAt w i) ∧
    ∀ i, 33 ≤ i → i ≤ 64 → elemAt (joinWords w (loWord q)) i = elemAt q i := by
  refine ⟨fun i h1 h2 => elemAt_joinWords_hi w _ i h1 h2, fun i h1 h2 => ?_⟩
  rw [elemAt_joinWords_lo _ _ i h1, elemAt_loWord q _ (by omega) (by omega)]
  congr 1
  omega

/-- A store to the LO half keeps elements 1..32 and takes 33..64 from the word (10_state.md R42). -/
theorem elemAt_storeLo (w : Word) (q : BitVec 64) :
    (∀ i, 1 ≤ i → i ≤ 32 → elemAt (joinWords (hiWord q) w) i = elemAt q i) ∧
    ∀ i, 33 ≤ i → i ≤ 64 → elemAt (joinWords (hiWord q) w) i = elemAt w (i - 32) := by
  refine ⟨fun i h1 h2 => ?_, fun i h1 _ => elemAt_joinWords_lo _ w i h1⟩
  rw [elemAt_joinWords_hi _ _ i h1 h2, elemAt_hiWord q i h1 h2]

/-- Settles O12: a store joins the written word with the other half's word (`elemAt_storeHi`, `elemAt_storeLo`). -/
theorem halfRegistersStoreAndRead : Obligations.HalfRegistersStoreAndRead := by
  intro s w rest
  have hwrite (off : Nat) (hoff : off % 4 = 0 ∧ off ≤ 0x7C) (hcmd : off ≠ 0x08) := step_write hoff hcmd w s rest
  refine ⟨⟨_, hwrite 0x10 (by decide) (by decide), elemAt_storeHi w s.key⟩,
    ⟨_, hwrite 0x14 (by decide) (by decide), elemAt_storeLo w s.key⟩,
    ⟨_, hwrite 0x18 (by decide) (by decide), elemAt_storeHi w s.data⟩,
    ⟨_, hwrite 0x1C (by decide) (by decide), elemAt_storeLo w s.data⟩,
    hwrite 0x20 (by decide) (by decide), hwrite 0x24 (by decide) (by decide), fun off q h => ?_⟩
  have hread : (off + 4) % 4 = 0 ∧ off + 4 ≤ 0x7C ∧ busRead off s = hiWord q ∧ busRead (off + 4) s = loWord q := by
    obtain ⟨rfl, rfl⟩ | ⟨rfl, rfl⟩ | ⟨rfl, rfl⟩ := h <;> exact ⟨rfl, by decide, rfl, rfl⟩
  obtain ⟨hmod, hle, hhi, hlo⟩ := hread
  refine ⟨hiWord q, loWord q, ?_, ?_, elemAt_hiWord q, elemAt_loWord q⟩
  · rw [step_read (by omega), hhi]
  · rw [step_read ⟨hmod, hle⟩, hlo]

/-! ### CMD, ID and CHAR_OUT -/

/-- Settles O5: the event is a write to CMD, and the word decodes to the command. -/
theorem stepRunsDecodedCommand : Obligations.StepRunsDecodedCommand := by
  intro s w i rest h
  rw [step_write_cmd, issueCommand, h]

/-- A byte extended to a register word stands in bits 7:0, and the bits above it are 0. -/
theorem setWidth_byte_fields (b : Byte) :
    (b.setWidth 32).extractLsb' 0 8 = b ∧ (b.setWidth 32).extractLsb' 8 24 = 0 := by
  constructor
  · exact extractLsb'_eq_of_getLsbD fun i hi => by
      have h : i < 32 := by omega
      simp [h, hi]
  · exact extractLsb'_eq_of_getLsbD fun i hi => by
      simp

/-- Settles O13: ID is a constant, CHAR_OUT a byte extended to a word, and no store reaches either. -/
theorem idAndCharOutReads : Obligations.IdAndCharOutReads := by
  intro s w rest
  exact ⟨step_read (by decide) s rest, step_write (by decide) (by decide) w s rest,
    ⟨s.charOut.setWidth 32, step_read (by decide) s rest, setWidth_byte_fields s.charOut⟩,
    step_write (by decide) (by decide) w s rest⟩

end Sys2Proof.Machine
end

section
/-! PROOF. The host's accesses: their order, the offsets that hold nothing, and the interface contract
(20_memory.md R62, R63, R64, R70). -/

namespace Sys2Proof.Machine

/-- Settles O4: the core idles with nothing pending (`step_idle`), and serves the oldest event otherwise
(`step_serves`). -/
theorem stepServesOldestEvent : Obligations.StepServesOldestEvent :=
  ⟨fun _ hp => step_idle hp, fun _ _ _ hp => step_serves hp⟩

/-! ### Offsets that hold nothing, and registers that no store reaches -/

/-- No register stands in the gaps of the address map, or above 0x3C (20_memory.md R60). -/
theorem windowReg_eq_reserved {off : Nat} (h : off = 0x0C ∨ off = 0x2C ∨ off = 0x3C ∨ 0x40 ≤ off) :
    windowReg off = .reserved := by
  unfold windowReg
  split
  case h_14 => rfl
  all_goals omega

/-- A write at a defined offset other than CMD whose register a store leaves alone is ignored (20_memory.md R62). -/
theorem step_write_ignored {off : Nat} (hoff : off % 4 = 0 ∧ off ≤ 0x7C) (hcmd : off ≠ 0x08) {w : Word}
    (hkeep : ∀ s : State, writeReg (windowReg off) w s = s) (s : State) (rest : List HostEvent) :
    step (s.onBus (.write off w) rest) = .next { s with pending := rest } := by
  rw [step_write hoff hcmd, hkeep]

/-- Settles O14: a reserved offset has no register behind it (`windowReg_eq_reserved`), and no store reaches a read-only
register. -/
theorem reservedAndReadOnlyOffsets : Obligations.ReservedAndReadOnlyOffsets := by
  refine fun s off w rest => ⟨fun h => ?_, fun h => ?_, step_read (by decide) s rest⟩
  · have hreg : windowReg off = .reserved := windowReg_eq_reserved (by omega)
    have hread : busRead off s = 0 := by rw [busRead, hreg, readReg]
    refine ⟨?_, step_write_ignored (by omega) (by omega) (fun t => ?_) s rest⟩
    · rw [step_read (by omega), hread]
    · rw [hreg, writeReg]
  · refine step_write_ignored (by omega) (by omega) (fun t => ?_) s rest
    obtain rfl | rfl | rfl | rfl | rfl | rfl | rfl | rfl := h <;> rfl

/-! ### Two reads of one offset -/

/-- No register's value depends on what the host has read before (20_memory.md R64). -/
@[simp] theorem busRead_returning (off : Nat) (s : State) (v : Word) : busRead off (s.returning v) = busRead off s := by
  unfold busRead
  cases windowReg off <;> rfl

/-- Settles O15: the first read changes only the record of returned values, on which the second does not depend
(`busRead_returning`). -/
theorem readsAreIdempotent : Obligations.ReadsAreIdempotent := by
  intro s off rest hmod hle
  refine ⟨busRead off s, (s.returning (busRead off s)).onBus (.read off) rest, step_read ⟨hmod, hle⟩ s _, ?_⟩
  rw [step_read ⟨hmod, hle⟩, busRead_returning, State.returning_returned, List.append_assoc]
  rfl

/-! ### The interface contract -/

/-- An event outside the interface contract is refused, in every state (20_memory.md R63). -/
theorem serve_refused {e : HostEvent} (he : e.legal = false) (s : State) : ∃ r, serve e s = .refused r := by
  have hrefusal {off : Nat} (hoff : ¬(off % 4 = 0 ∧ off ≤ 0x7C)) : ∃ r, accessRefusal off = some r :=
    accessRefusal_eq_some.mpr (by omega)
  cases e with
  | read off =>
    obtain ⟨r, hr⟩ := hrefusal (of_decide_eq_false he)
    exact ⟨r, by simp only [serve, hr]⟩
  | write off w =>
    obtain ⟨r, hr⟩ := hrefusal (of_decide_eq_false he)
    exact ⟨r, by simp only [serve, hr]⟩
  | otherWidth bits off => exact ⟨.accessWidth bits, rfl⟩
  | reset => exact Bool.noConfusion he

/-- Settles O16: an event inside the contract completes (`serve_completes`), and any other is refused
(`serve_refused`). -/
theorem onlyContractAccessesComplete : Obligations.OnlyContractAccessesComplete := by
  unfold Obligations.OnlyContractAccessesComplete
  simp only [step_onBus]
  refine ⟨fun s off w rest h => ?_, fun s off w rest h => ?_, fun s bits off rest => serve_refused rfl _⟩
  · have hlegal : decide (off % 4 = 0 ∧ off ≤ 0x7C) = true := decide_eq_true h
    exact ⟨serve_completes (e := .read off) hlegal _, serve_completes (e := .write off w) hlegal _⟩
  · have hillegal : decide (off % 4 = 0 ∧ off ≤ 0x7C) = false := decide_eq_false (by omega)
    exact ⟨serve_refused (e := .read off) hillegal _, serve_refused (e := .write off w) hillegal _⟩

end Sys2Proof.Machine
end

section
/-! SUPPORT. A command word under a mask, and the three classes of a command word by its fields (30_encoding.md R94 to
R96): the OPC is unassigned, or a field that the OPC's row reserves is not zero, or the word is a command. -/

namespace Sys2Proof

open Sys2Proof.Machine

/-! ### Masks -/

/-- Masking a word masks each of its fields (30_encoding.md R91). -/
theorem and_commandWord (w : Word) (mo ma mb mc : Byte) : w &&& commandWord mo ma mb mc =
    commandWord (fieldOPC w &&& mo) (fieldA w &&& ma) (fieldB w &&& mb) (fieldC w &&& mc) := by
  rw [← commandWord_and, commandWord_fields]

/-- A mask of eight ones keeps a field. -/
theorem byte_and_ff (x : Byte) : x &&& 0xFF = x := BitVec.and_allOnes

/-- A word fits a row exactly when each of its fields has the bits that the row fixes there. -/
theorem fits_iff_fields {mo ma mb mc o a b c : Byte} {w : Word} :
    (OpcodeRow.mk (commandWord mo ma mb mc) (commandWord o a b c)).fits w = true ↔
      fieldOPC w &&& mo = o ∧ fieldA w &&& ma = a ∧ fieldB w &&& mb = b ∧ fieldC w &&& mc = c := by
  simp [OpcodeRow.fits, and_commandWord, word_eq_iff]

/-- Only the row's own value fits a row that fixes all bits. -/
theorem eq_of_fits_allFixed {v w : Word} (h : (OpcodeRow.mk 0xFFFFFFFF v).fits w = true) : w = v := by
  rw [OpcodeRow.fits, beq_iff_eq] at h
  exact BitVec.and_allOnes.symm.trans h

/-! ### The three classes by the fields -/

/-- The assigned codes one by one (30_encoding.md R93). -/
theorem assignedOPC_iff {n : Nat} : assignedOPC n = true ↔
    n = 0x00 ∨ n = 0x01 ∨ n = 0x02 ∨ n = 0x03 ∨ n = 0x04 ∨ n = 0x10 ∨ n = 0x11 ∨ n = 0x12 ∨ n = 0x13 ∨ n = 0x14 := by
  rw [assignedOPC, decide_eq_true_iff]
  omega

/-- A field that the word's row reserves is not zero (30_encoding.md R93, R94). -/
theorem reservedNonZero_iff {w : Word} :
    reservedNonZero (fieldOPC w).toNat (fieldA w).toNat (fieldB w).toNat (fieldC w).toNat = true ↔
      (((fieldOPC w).toNat ≤ 0x04 ∨ (fieldOPC w).toNat = 0x13) ∧ (fieldA w ≠ 0 ∨ fieldB w ≠ 0 ∨ fieldC w ≠ 0)) ∨
      ((fieldOPC w).toNat = 0x10 ∧ fieldC w ≠ 0) ∨
      ((fieldOPC w).toNat = 0x14 ∧ (fieldB w ≠ 0 ∨ fieldC w ≠ 0)) := by
  simp [reservedNonZero, BitVec.toNat_eq, or_assoc]

/-- An unassigned OPC reserves no field (30_encoding.md R94, R95). -/
theorem reservedNonZero_eq_false_of_unassigned {opc : Nat} (h : assignedOPC opc = false) (a b c : Nat) :
    reservedNonZero opc a b c = false := by
  rw [assignedOPC, decide_eq_false_iff_not] at h
  have h0 : ¬(opc ≤ 0x04 ∨ opc = 0x13) := by omega
  have h1 : opc ≠ 0x10 ∧ opc ≠ 0x14 := by omega
  simp [reservedNonZero, h0, h1]

/-- OPC is looked at first; the row of an assigned OPC then answers by its test of the fields it reserves
(30_encoding.md R96). -/
theorem decodeWord_eq_illegalOpcode_or_row (w : Word) :
    (decodeWord w = .illegalOpcode ∧ assignedOPC (fieldOPC w).toNat = false) ∨
    ∃ z i, decodeWord w = ifReservedZero z i ∧ assignedOPC (fieldOPC w).toNat = true ∧
      reservedNonZero (fieldOPC w).toNat (fieldA w).toNat (fieldB w).toNat (fieldC w).toNat = !z := by
  unfold decodeWord
  split
  case h_11 =>
    refine .inl ⟨rfl, Bool.eq_false_iff.mpr fun h => ?_⟩
    have := assignedOPC_iff.mp h
    simp_all
  -- The two rows that reserve no field.
  case h_7 hopc | h_8 hopc => exact .inr ⟨true, _, rfl, by rw [hopc]; rfl, by rw [hopc]; rfl⟩
  all_goals
    refine .inr ⟨_, _, rfl, by simp [assignedOPC, *], ?_⟩
    rw [Bool.eq_iff_iff, reservedNonZero_iff]
    simp [or_assoc, *]

/-- A word is illegal exactly when its OPC is unassigned (30_encoding.md R95). -/
theorem decodeWord_eq_illegalOpcode {w : Word} :
    decodeWord w = .illegalOpcode ↔ assignedOPC (fieldOPC w).toNat = false := by
  obtain ⟨hd, ho⟩ | ⟨z, i, hd, ho, -⟩ := decodeWord_eq_illegalOpcode_or_row w
  · simp [hd, ho]
  · cases z <;> simp [hd, ho, ifReservedZero]

/-- A word is a reserved-field encoding exactly when a field its OPC reserves is not zero (30_encoding.md R94). -/
theorem decodeWord_eq_reservedField {w : Word} :
    decodeWord w = .reservedField ↔
      reservedNonZero (fieldOPC w).toNat (fieldA w).toNat (fieldB w).toNat (fieldC w).toNat = true := by
  obtain ⟨hd, ho⟩ | ⟨z, i, hd, -, hr⟩ := decodeWord_eq_illegalOpcode_or_row w
  · simp [hd, reservedNonZero_eq_false_of_unassigned ho]
  · cases z <;> simp [hd, hr, ifReservedZero]

/-- A word with an assigned OPC and zero reserved fields is a command (30_encoding.md R96). -/
theorem decodeWord_command_of_fields {w : Word} (ho : assignedOPC (fieldOPC w).toNat = true)
    (hr : reservedNonZero (fieldOPC w).toNat (fieldA w).toNat (fieldB w).toNat (fieldC w).toNat = false) :
    ∃ i, decodeWord w = .command i := by
  cases hd : decodeWord w with
  | command i => exact ⟨i, rfl⟩
  | reservedField => simp [decodeWord_eq_reservedField, hr] at hd
  | illegalOpcode => simp [decodeWord_eq_illegalOpcode, ho] at hd

/-! ### Commands and the rows of the opcode table -/

/-- Every command's word fits that command's row. -/
theorem opcodeRow_fits_encode (i : Instr) : (opcodeRow i).fits (encode i) = true := by
  cases i with
  | nop => exact Laws.RowFits.nop.1
  | keySchedule => exact Laws.RowFits.keySchedule.1
  | keyGenerate => exact Laws.RowFits.keyGenerate.1
  | encryptBlock => exact Laws.RowFits.encryptBlock.1
  | decryptBlock => exact Laws.RowFits.decryptBlock.1
  | rotorStageWiring index letter => exact (Laws.RowFits.rotorStageWiring index letter).1
  | rotorConfigure rotor notch init => exact (Laws.RowFits.rotorConfigure rotor notch init).1
  | rotorSetPositions pos0 pos1 pos2 => exact (Laws.RowFits.rotorSetPositions pos0 pos1 pos2).1
  | rotorReset => exact Laws.RowFits.rotorReset.1
  | rotorEncodeChar char => exact (Laws.RowFits.rotorEncodeChar char).1

theorem opcodeRow_mem_opcodeTable (i : Instr) : opcodeRow i ∈ opcodeTable := by
  cases i <;> simp [opcodeTable, opcodeRow]

/-- A word that fits a command's row is a command: its OPC is the row's, and the fields the row reserves are zero. -/
theorem decodeWord_command_of_fits {i : Instr} {w : Word} (h : (opcodeRow i).fits w = true) :
    ∃ j, decodeWord w = .command j := by
  cases i with
  | nop | keySchedule | keyGenerate | encryptBlock | decryptBlock | rotorReset =>
    obtain rfl := eq_of_fits_allFixed h
    exact ⟨_, rfl⟩
  | rotorStageWiring =>
    have hrow : (OpcodeRow.mk (commandWord 0xFF 0 0 0xFF) (commandWord 0x10 0 0 0)).fits w = true := h
    obtain ⟨ho, -, -, hc⟩ := fits_iff_fields.mp hrow
    rw [byte_and_ff] at ho hc
    exact decodeWord_command_of_fields (by simp [ho, assignedOPC]) (by simp [ho, hc, reservedNonZero])
  | rotorConfigure =>
    have hrow : (OpcodeRow.mk (commandWord 0xFF 0 0 0) (commandWord 0x11 0 0 0)).fits w = true := h
    obtain ⟨ho, -, -, -⟩ := fits_iff_fields.mp hrow
    rw [byte_and_ff] at ho
    exact decodeWord_command_of_fields (by simp [ho, assignedOPC]) (by simp [ho, reservedNonZero])
  | rotorSetPositions =>
    have hrow : (OpcodeRow.mk (commandWord 0xFF 0 0 0) (commandWord 0x12 0 0 0)).fits w = true := h
    obtain ⟨ho, -, -, -⟩ := fits_iff_fields.mp hrow
    rw [byte_and_ff] at ho
    exact decodeWord_command_of_fields (by simp [ho, assignedOPC]) (by simp [ho, reservedNonZero])
  | rotorEncodeChar =>
    have hrow : (OpcodeRow.mk (commandWord 0xFF 0 0xFF 0xFF) (commandWord 0x14 0 0 0)).fits w = true := h
    obtain ⟨ho, -, hb, hc⟩ := fits_iff_fields.mp hrow
    rw [byte_and_ff] at ho hb hc
    exact decodeWord_command_of_fields (by simp [ho, assignedOPC]) (by simp [ho, hb, hc, reservedNonZero])

/-- A word is a command exactly when it fits a row of the opcode table (30_encoding.md R96). -/
theorem decodeWord_command_iff_fits {w : Word} :
    (∃ i, decodeWord w = .command i) ↔ ∃ row ∈ opcodeTable, row.fits w = true := by
  constructor
  · rintro ⟨i, hi⟩
    exact ⟨opcodeRow i, opcodeRow_mem_opcodeTable i, encode_of_decodeWord hi ▸ opcodeRow_fits_encode i⟩
  · rintro ⟨row, hrow, hfits⟩
    obtain ⟨i, -, rfl⟩ := List.mem_map.mp hrow
    exact decodeWord_command_of_fits hfits

end Sys2Proof
end

section
/-! PROOF. The classes of command words (30_encoding.md R94 to R96), and the words of the spec's examples (R98). -/

namespace Sys2Proof.Machine

/-- Settles O3: the commands are the words that fit a row (`decodeWord_command_iff_fits`), the illegal words those of an
unassigned OPC (`decodeWord_eq_illegalOpcode`), and the reserved-field encodings are the rest. -/
theorem everyWordHasOneClass : Obligations.EveryWordHasOneClass := by
  intro w
  refine ⟨decodeWord_command_iff_fits, ?_, decodeWord_eq_illegalOpcode⟩
  have hassigned : assignedOPC (fieldOPC w).toNat = true ↔ decodeWord w ≠ .illegalOpcode := by
    rw [ne_eq, decodeWord_eq_illegalOpcode, Bool.not_eq_false]
  have hnoRow : (∀ row ∈ opcodeTable, row.fits w = false) ↔ ¬∃ i, decodeWord w = .command i := by
    simp [decodeWord_command_iff_fits]
  rw [hassigned, hnoRow]
  cases decodeWord w <;> simp

/-- A reserved-field encoding on CMD fails with RESERVED_FIELD (30_encoding.md R94). -/
theorem failsWith_of_reservedField {w : Word} (h : decodeWord w = .reservedField) (s : State) : FailsWith 0x02 w s := by
  intro rest
  rw [step_write_cmd, issueCommand, h]
  rfl

/-- Settles O7: a non-zero reserved field makes the word a reserved-field encoding (`decodeWord_eq_reservedField`), and the
mask that clears the reserved fields keeps the OPC and the arguments (`and_commandWord`). -/
theorem reservedFieldWordsFail : Obligations.ReservedFieldWordsFail := by
  refine ⟨fun s w h => failsWith_of_reservedField (decodeWord_eq_reservedField.mpr (reservedNonZero_iff.mpr h)) s,
    fun w h => ?_, fun w h => ?_, fun w h => ?_, by decide, by decide⟩
  · have hm : (0x000000FF : Word) = commandWord 0xFF 0 0 0 := by decide
    rw [hm, and_commandWord]
    simp only [byte_and_ff, Laws.RowFits.masked_out]
    have ho : assignedOPC (fieldOPC w).toNat = true := decide_eq_true (by omega)
    exact decodeWord_command_of_fields (by simp [ho]) (by simp [reservedNonZero])
  · have hm : (0x00FFFFFF : Word) = commandWord 0xFF 0xFF 0xFF 0 := by decide
    rw [hm, and_commandWord]
    simp only [byte_and_ff, Laws.RowFits.masked_out]
    exact decodeWord_command_of_fields (by simp [h, assignedOPC]) (by simp [h, reservedNonZero])
  · have hm : (0x0000FFFF : Word) = commandWord 0xFF 0xFF 0 0 := by decide
    rw [hm, and_commandWord]
    simp only [byte_and_ff, Laws.RowFits.masked_out]
    exact decodeWord_command_of_fields (by simp [h, assignedOPC]) (by simp [h, reservedNonZero])

/-- Settles O1: the words are closed, and the decoder evaluates on each. -/
theorem specWordsDecode : Obligations.SpecWordsDecode := by
  unfold Obligations.SpecWordsDecode
  decide

end Sys2Proof.Machine
end

section
/-! PROOF. The permutation primitive and the fixed tables (40_permutation_tables.md R120 to R136). -/

namespace Sys2Proof.Machine

/-! ### The permutation primitive -/

/-- The elements of a vector built from a list, numbered from 1 as the spec does (00_scope.md R8). -/
theorem elemAt_ofElems {n : Nat} {bs : List Bool} (hn : bs.length = n) {i : Nat} (h1 : 1 ≤ i) (h2 : i ≤ n) :
    elemAt (ofElems n bs) i = bs[i - 1] :=
  getMsbD_ofElems bs hn (i - 1) (by omega)

/-- A number from 1 to the table's length names an entry of the table, never the default of `entry`. -/
theorem entry_eq_getElem {n : Nat} (T : Vector Nat n) {i : Nat} (h1 : 1 ≤ i) (h2 : i ≤ n) : entry T i = T[i - 1] := by
  have hi : i - 1 < T.toList.length := by rw [Vector.length_toList]; omega
  rw [entry, List.getD_eq_getElem _ _ hi, Vector.getElem_toList]

/-- The formula of R120; the table may repeat or omit source elements. -/
theorem elemAt_perm {m n : Nat} (bv : BitVec m) (T : Vector Nat n) {i : Nat} (h1 : 1 ≤ i) (h2 : i ≤ n) :
    elemAt (perm bv T) i = elemAt bv (entry T i) := by
  have hlen : (T.toList.map (elemAt bv)).length = n := by rw [List.length_map, Vector.length_toList]
  rw [perm, elemAt_ofElems hlen h1 h2, List.getElem_map, Vector.getElem_toList, entry_eq_getElem T h1 h2]

/-- Settles O29: it is `elemAt_perm`, for every table, vector and index. -/
theorem permTakesTableElements : Obligations.PermTakesTableElements :=
  fun _ _ bv T _ h1 h2 => elemAt_perm bv T h1 h2

/-! ### The fixed tables: closed facts, one lemma a rule -/

/-- The machine's table set meets R121, the premise of the engine's inversion and complementation properties. -/
theorem tablesWf_fipsTables : tablesWf fipsTables = true := by decide

/-- Group `g` of E starts at the last bit of the group before it and ends at the first bit of the next, with the wrap at
32 and 1 (R124). -/
theorem entry_fipsTables_e (g : Fin 8) (j : Fin 6) :
    entry fipsTables.e (6 * g.val + j.val + 1) = (4 * g.val + j.val + 31) % 32 + 1 := by
  revert g j
  decide

/-- PC1 omits the parity elements 8, 16, …, 64 (R126). -/
theorem fipsTables_pc1_omits_parity : ∀ x ∈ fipsTables.pc1.toList, x % 8 ≠ 0 := by decide

/-- PC2 omits eight of the 56 elements (R127). -/
theorem fipsTables_pc2_omits : ∀ x ∈ fipsTables.pc2.toList, x ∉ [9, 18, 22, 25, 35, 38, 43, 54] := by decide

/-- The sixteen rounds rotate each key half once around (R128). -/
theorem sum_fipsTables_shifts : fipsTables.shifts.toList.sum = 28 := by decide

/-- Every number from 0 to 15 stands in each of the 32 S-box rows, so each row is a permutation (R129 to R136). -/
theorem fipsTables_sbox_row_complete (g : Fin 8) (r : Fin 4) :
    (List.range 16).all (fun v => fipsTables.sbox[g][r].toList.contains v) = true := by
  revert g r
  decide

/-- Settles O30: one lemma for each clause. -/
theorem fixedTablesMeetTheirRules : Obligations.FixedTablesMeetTheirRules :=
  ⟨tablesWf_fipsTables, entry_fipsTables_e, fipsTables_pc1_omits_parity, fipsTables_pc2_omits, sum_fipsTables_shifts,
    fipsTables_sbox_row_complete⟩

end Sys2Proof.Machine
end

section
/-! SUPPORT. The elements of the vector operations the Feistel engine is made of: complement, XOR, a cut piece and the left
rotation (00_scope.md R8; 41_des_engine.md R156); what a permutation makes of a complement; and a loop read one round more
at a time. -/

namespace Sys2Proof.Machine

theorem elemAt_not {n : Nat} (v : BitVec n) {i : Nat} (h1 : 1 ≤ i) (h2 : i ≤ n) : elemAt (~~~v) i = !elemAt v i := by
  have hi : i - 1 < n := by omega
  simp [elemAt, BitVec.getMsbD_not, hi]

theorem elemAt_xor {n : Nat} (a b : BitVec n) (i : Nat) : elemAt (a ^^^ b) i = (elemAt a i ^^ elemAt b i) :=
  BitVec.getMsbD_xor

/-- A piece cut out above the `start` low elements, numbered from its own first element. -/
theorem elemAt_extractLsb' {n start len : Nat} (v : BitVec n) (h : start + len ≤ n) {i : Nat} (h1 : 1 ≤ i)
    (h2 : i ≤ len) : elemAt (v.extractLsb' start len) i = elemAt v (n - (start + len) + i) := by
  have hlen : i - 1 < len := by omega
  have hn : start + len - (i - 1) ≤ n := by omega
  have hidx : n - (start + len - (i - 1)) = n - (start + len) + i - 1 := by omega
  simp only [elemAt, BitVec.getMsbD_extractLsb', hlen, hn, hidx, decide_true, Bool.true_and]

/-- The formula of R156: element `k + 1` becomes element 1. -/
theorem elemAt_rotl (v : BitVec 28) (k : Nat) {i : Nat} (h1 : 1 ≤ i) (h2 : i ≤ 28) :
    elemAt (rotl v k) i = elemAt v ((i - 1 + k) % 28 + 1) := by
  have hi : i - 1 < 28 := by omega
  simp only [elemAt, rotl, BitVec.getMsbD_rotateLeft, hi, decide_true, Bool.true_and, Nat.add_sub_cancel, Nat.add_comm k]

/-- A piece of a complement is the complement of the piece. -/
theorem extractLsb'_not {n start len : Nat} (v : BitVec n) (h : start + len ≤ n) :
    (~~~v).extractLsb' start len = ~~~v.extractLsb' start len := by
  apply eq_of_elemAt_eq
  intro i h1 h2
  rw [elemAt_extractLsb' _ h h1 h2, elemAt_not _ h1 h2, elemAt_extractLsb' _ h h1 h2, elemAt_not _ (by omega) (by omega)]

theorem hiWord_not (v : BitVec 64) : hiWord (~~~v) = ~~~hiWord v := extractLsb'_not v (by omega)

theorem loWord_not (v : BitVec 64) : loWord (~~~v) = ~~~loWord v := extractLsb'_not v (by omega)

theorem joinWords_not (a b : Word) : joinWords (~~~a) (~~~b) = ~~~joinWords a b := BitVec.not_append.symm

theorem rotl_not (v : BitVec 28) (k : Nat) : rotl (~~~v) k = ~~~rotl v k := by
  apply eq_of_elemAt_eq
  intro i h1 h2
  have hlt : (i - 1 + k) % 28 < 28 := Nat.mod_lt _ (by decide)
  rw [elemAt_rotl _ _ h1 h2, elemAt_not _ h1 h2, elemAt_rotl _ _ h1 h2, elemAt_not _ (by omega) (by omega)]

/-- A permutation whose entries are source indices commutes with the complement; an entry out of range would read as 0
in both (R120). -/
theorem perm_not {m n : Nat} (v : BitVec m) {T : Vector Nat n}
    (hT : ∀ i, 1 ≤ i → i ≤ n → 1 ≤ entry T i ∧ entry T i ≤ m) : perm (~~~v) T = ~~~perm v T := by
  apply eq_of_elemAt_eq
  intro i h1 h2
  obtain ⟨hlo, hhi⟩ := hT i h1 h2
  rw [elemAt_perm _ _ h1 h2, elemAt_not _ h1 h2, elemAt_perm _ _ h1 h2, elemAt_not _ hlo hhi]

/-- Two vectors that agree at every entry of a table have the same permutation by it (R120). -/
theorem perm_congr {m n : Nat} {v w : BitVec m} {T : Vector Nat n} (h : ∀ x ∈ T.toList, elemAt v x = elemAt w x) :
    perm v T = perm w T := by
  rw [perm, perm, List.map_congr_left h]

/-! ### Round by round -/

/-- A fold over the first entries of a list, one entry more: the form in which the key schedule and the round loop are read
round by round. -/
theorem foldl_take_succ {α β : Type} (f : β → α → β) (b : β) {xs : List α} {n : Nat} (h : n < xs.length) :
    (xs.take (n + 1)).foldl f b = f ((xs.take n).foldl f b) xs[n] := by
  rw [List.take_succ_eq_append_getElem h, List.foldl_append, List.foldl_cons, List.foldl_nil]

end Sys2Proof.Machine
end

section
/-! SUPPORT. What the well-formedness of a table set gives (40_permutation_tables.md R121): entries in range, and IP and FP
inverse to each other. -/

namespace Sys2Proof.Machine

/-- Every entry of a table that `entriesIn` accepts, read by its number, is a source index. -/
theorem entry_range {m n : Nat} {T : Vector Nat n} (h : entriesIn m T = true) (i : Nat) (h1 : 1 ≤ i) (h2 : i ≤ n) :
    1 ≤ entry T i ∧ entry T i ≤ m := by
  rw [entriesIn, List.all_eq_true] at h
  rw [entry_eq_getElem T h1 h2]
  exact of_decide_eq_true (h _ (Vector.mem_toList_iff.mpr (Vector.getElem_mem _)))

/-- The clauses of R121 that the engine's two laws rest on. -/
theorem tablesWf_clauses {T : DesTables} (h : tablesWf T = true) :
    entriesIn 64 T.ip = true ∧ (∀ i, 1 ≤ i → i ≤ 64 → entry T.fp (entry T.ip i) = i) ∧ entriesIn 32 T.e = true ∧
      entriesIn 64 T.pc1 = true ∧ entriesIn 56 T.pc2 = true := by
  simp only [tablesWf, Bool.and_eq_true] at h
  obtain ⟨⟨⟨⟨⟨⟨⟨⟨hip, -⟩, hfp⟩, he⟩, -⟩, hpc1, -⟩, hpc2, -⟩, -⟩, -⟩ := h
  refine ⟨hip, fun i h1 h2 => ?_, he, hpc1, hpc2⟩
  have := List.all_eq_true.mp hfp (i - 1) (List.mem_range.mpr (by omega))
  rwa [Nat.sub_add_cancel h1, beq_iff_eq] at this

/-- IP has FP as a left inverse, so it is injective on [1,64], and on a finite range also surjective: FP answers the place
where IP names an element. -/
theorem exists_ip_entry {T : DesTables} (h : tablesWf T = true) {j : Nat} (h1 : 1 ≤ j) (h2 : j ≤ 64) :
    ∃ i, 1 ≤ i ∧ i ≤ 64 ∧ entry T.ip i = j ∧ entry T.fp j = i := by
  obtain ⟨hip, hfp, -, -, -⟩ := tablesWf_clauses h
  have hmaps : Set.MapsTo (entry T.ip) (Finset.Icc 1 64) (Finset.Icc 1 64) := fun i hi => by
    rw [Finset.mem_coe, Finset.mem_Icc] at hi ⊢
    exact entry_range hip i hi.1 hi.2
  have hleft : Set.LeftInvOn (entry T.fp) (entry T.ip) (Finset.Icc 1 64) := fun i hi => by
    rw [Finset.mem_coe, Finset.mem_Icc] at hi
    exact hfp i hi.1 hi.2
  obtain ⟨i, hi, rfl⟩ := Finset.surjOn_of_injOn_of_card_le _ hmaps hleft.injOn le_rfl
    (Finset.mem_coe.mpr (Finset.mem_Icc.mpr ⟨h1, h2⟩))
  have hfi := hleft hi
  rw [Finset.mem_coe, Finset.mem_Icc] at hi
  exact ⟨i, hi.1, hi.2, rfl, hfi⟩

/-- FP's entries are source indices too (R121 says it only through IP). -/
theorem entry_fp_range {T : DesTables} (h : tablesWf T = true) (j : Nat) (h1 : 1 ≤ j) (h2 : j ≤ 64) :
    1 ≤ entry T.fp j ∧ entry T.fp j ≤ 64 := by
  obtain ⟨i, hi1, hi2, -, hfp⟩ := exists_ip_entry h h1 h2
  rw [hfp]
  exact ⟨hi1, hi2⟩

/-- FP undoes IP. -/
theorem perm_ip_perm_fp {T : DesTables} (h : tablesWf T = true) (B : BitVec 64) : perm (perm B T.ip) T.fp = B := by
  apply eq_of_elemAt_eq
  intro j h1 h2
  obtain ⟨i, hi1, hi2, hip, hfp⟩ := exists_ip_entry h h1 h2
  rw [elemAt_perm _ _ h1 h2, hfp, elemAt_perm _ _ hi1 hi2, hip]

/-- IP undoes FP. -/
theorem perm_fp_perm_ip {T : DesTables} (h : tablesWf T = true) (B : BitVec 64) : perm (perm B T.fp) T.ip = B := by
  obtain ⟨hip, hfp, -, -, -⟩ := tablesWf_clauses h
  apply eq_of_elemAt_eq
  intro i h1 h2
  obtain ⟨hlo, hhi⟩ := entry_range hip i h1 h2
  rw [elemAt_perm _ _ h1 h2, elemAt_perm _ _ hlo hhi, hfp i h1 h2]

end Sys2Proof.Machine
end

section
/-! PROOF. The key schedule (41_des_engine.md R155 to R158). -/

namespace Sys2Proof.Machine

/-- Settles O31: the first clause is `elemAt_rotl`; by elements, rotating by one moves element 1 behind the other 27. -/
theorem rotlMovesTowardElementOne : Obligations.RotlMovesTowardElementOne := by
  refine ⟨fun v k i h1 h2 => elemAt_rotl v k h1 h2, fun v => eq_of_elemAt_eq fun i h1 h2 => ?_⟩
  rw [elemAt_rotl v 1 h1 h2, elemAt_append _ _ _ h1]
  split
  · rw [elemAt_extractLsb' v (by omega) h1 ‹_›]
    congr 1
    omega
  · rw [elemAt_extractLsb' v (by omega) (by omega) (by omega)]
    congr 1
    omega

/-- A half of the parity drop after `n` rounds: the first `n` shifts, one on top of the other. -/
def keyHalfAfter (T : DesTables) (H : BitVec 28) (n : Nat) : BitVec 28 := (T.shifts.toList.take n).foldl rotl H

theorem keyHalfAfter_succ (T : DesTables) (H : BitVec 28) (n : Fin 16) :
    keyHalfAfter T H (n.val + 1) = rotl (keyHalfAfter T H n.val) T.shifts[n] := by
  rw [keyHalfAfter, foldl_take_succ _ _ (by simp), Vector.getElem_toList]
  rfl

/-- The two halves of the parity drop, by elements (R155). -/
theorem elemAt_keyHalves (T : DesTables) (K : BitVec 64) {i : Nat} (h1 : 1 ≤ i) (h2 : i ≤ 28) :
    elemAt (keyHalves T K).1 i = elemAt (perm K T.pc1) i ∧
    elemAt (keyHalves T K).2 i = elemAt (perm K T.pc1) (28 + i) := by
  refine ⟨(elemAt_extractLsb' _ (by omega) h1 h2).trans ?_, elemAt_extractLsb' _ (by omega) h1 h2⟩
  simp

/-- The loop of R157 at any round: the halves rotated by all the shifts up to it, compressed. -/
theorem getElem_subkeysFrom (T : DesTables) (ks : List Nat) (C D : BitVec 28) (n : Nat)
    (h : n < (subkeysFrom T ks C D).length) :
    (subkeysFrom T ks C D)[n] = perm ((ks.take (n + 1)).foldl rotl C ++ (ks.take (n + 1)).foldl rotl D) T.pc2 := by
  induction ks generalizing n C D with
  | nil => simp [subkeysFrom] at h
  | cons k ks ih =>
    cases n with
    | zero => rfl
    | succ n => exact ih _ _ n (by simpa [subkeysFrom] using h)

/-- Each round's subkey is the compression of the halves after that round (R157). -/
theorem getElem_keySchedule (T : DesTables) (K : BitVec 64) (n : Fin 16) :
    (keySchedule T K)[n] =
      perm (keyHalfAfter T (keyHalves T K).1 (n.val + 1) ++ keyHalfAfter T (keyHalves T K).2 (n.val + 1)) T.pc2 :=
  getElem_subkeysFrom T _ _ _ n.val _

/-- The worked example of R157, first and last subkey. -/
theorem keySchedule_example : (keySchedule fipsTables 0x133457799BBCDFF1)[0] = 0x1B02EFFC7072 ∧
    (keySchedule fipsTables 0x133457799BBCDFF1)[15] = 0xCB3D8B0E17F5 := by decide +kernel

/-- Settles O32: C and D are `keyHalfAfter` of the two halves of the parity drop. -/
theorem keyScheduleRounds : Obligations.KeyScheduleRounds := by
  refine ⟨fun T K => ⟨keyHalfAfter T (keyHalves T K).1, keyHalfAfter T (keyHalves T K).2, ?_, ?_, fun n => ?_⟩,
    keySchedule_example⟩
  · exact fun i h1 h2 => (elemAt_keyHalves T K h1 h2).1
  · exact fun i h1 h2 => (elemAt_keyHalves T K h1 h2).2
  · exact ⟨keyHalfAfter_succ T _ n, keyHalfAfter_succ T _ n, getElem_keySchedule T K n⟩

/-- The schedule reads the key through PC1 alone (R155). -/
theorem keySchedule_congr {T : DesTables} {K K' : BitVec 64} (h : perm K T.pc1 = perm K' T.pc1) :
    keySchedule T K = keySchedule T K' := by
  simp only [keySchedule, keyHalves, h]

/-- The schedule does not see the parity elements, which the machine's PC1 omits (R158). -/
theorem keySchedule_eq_of_parity {K K' : BitVec 64}
    (h : ∀ i, 1 ≤ i → i ≤ 64 → i % 8 ≠ 0 → elemAt K i = elemAt K' i) :
    keySchedule fipsTables K = keySchedule fipsTables K' := by
  obtain ⟨-, -, -, hpc1, -⟩ := tablesWf_clauses tablesWf_fipsTables
  refine keySchedule_congr (perm_congr fun x hx => ?_)
  obtain ⟨hlo, hhi⟩ := of_decide_eq_true (List.all_eq_true.mp hpc1 x hx)
  exact h x hlo hhi (fipsTables_pc1_omits_parity x hx)

/-- Settles O33: the subkeys are the same (`keySchedule_eq_of_parity`), and a block depends on the key through them. -/
theorem parityElementsDoNotMatter : Obligations.ParityElementsDoNotMatter := by
  refine ⟨fun K K' h => ?_, fun s => ⟨_, (Ran.keySchedule s).exec_eq, rfl⟩⟩
  rw [keySchedule_eq_of_parity h]
  exact ⟨rfl, fun _ => ⟨rfl, rfl⟩⟩

end Sys2Proof.Machine
end

section
/-! PROOF. The round function (41_des_engine.md R159 to R161). -/

namespace Sys2Proof.Machine

/-- The formula of R159 by elements. -/
theorem elemAt_expandXor (T : DesTables) (R : BitVec 32) (Kn : Subkey) {i : Nat} (h1 : 1 ≤ i) (h2 : i ≤ 48) :
    elemAt (expandXor T R Kn) i = (elemAt R (entry T.e i) ^^ elemAt Kn i) := by
  rw [expandXor, elemAt_xor, elemAt_perm _ _ h1 h2]

/-- The elements of a six-bit group (R160). -/
theorem elemAt_sixGroup (X : BitVec 48) (g : Fin 8) {j : Nat} (h1 : 1 ≤ j) (h2 : j ≤ 6) :
    elemAt (sixGroup X g.val) j = elemAt X (6 * g.val + j) := by
  have hg := g.isLt
  rw [sixGroup, elemAt_extractLsb' X (by omega) h1 h2]
  congr 1
  omega

/-- The row of a group is made of its outer elements (R160). -/
theorem sboxRow_sixGroup (X : BitVec 48) (g : Fin 8) : sboxRow (sixGroup X g.val) =
    2 * (elemAt X (6 * g.val + 1)).toNat + (elemAt X (6 * g.val + 6)).toNat := by
  simp only [sboxRow, elemAt_sixGroup, Nat.reduceLeDiff]

/-- The column of a group is made of its middle four elements, the second one most significant (R160). -/
theorem sboxCol_sixGroup (X : BitVec 48) (g : Fin 8) : sboxCol (sixGroup X g.val) =
    8 * (elemAt X (6 * g.val + 2)).toNat + 4 * (elemAt X (6 * g.val + 3)).toNat +
      2 * (elemAt X (6 * g.val + 4)).toNat + (elemAt X (6 * g.val + 5)).toNat := by
  simp only [sboxCol, elemAt_sixGroup, Nat.reduceLeDiff, natOfElems, List.foldl_cons, List.foldl_nil]
  omega

/-- A number of a box, a row and a column in range names an entry of the bank, never the default of `sboxAt`. -/
theorem sboxAt_eq_getElem (T : DesTables) (g : Fin 8) (row : Fin 4) (col : Fin 16) :
    sboxAt T g.val row.val col.val = T.sbox[g][row][col] := by
  simp [sboxAt]

/-- The bank is the eight four-bit outputs side by side (R160). -/
theorem elemAt_sboxBank (T : DesTables) (X : BitVec 48) (g : Fin 8) {k : Nat} (h1 : 1 ≤ k) (h2 : k ≤ 4) :
    elemAt (sboxBank T X) (4 * g.val + k) = elemAt (sboxOut T X g.val) k := by
  fin_cases g
  all_goals
    simp (disch := omega) only [sboxBank, elemAt_append, if_pos, if_neg]
    congr 1
    omega

/-- Settles O34: the elements of E(R) ⊕ Kn, and one S-box output by row, column and bit. -/
theorem expansionAndSboxBank : Obligations.ExpansionAndSboxBank := by
  refine ⟨fun T R Kn i h1 h2 => elemAt_expandXor T R Kn h1 h2, fun T X g row col hrow hcol k h1 h2 => ?_⟩
  rw [elemAt_sboxBank T X g h1 h2, sboxOut, sboxRow_sixGroup, sboxCol_sixGroup, ← hrow, ← hcol, sboxAt_eq_getElem]

/-- Settles O35: the first clause is the definition; the rest evaluates the worked example of R161. -/
theorem roundFunctionExample : Obligations.RoundFunctionExample :=
  ⟨fun _ _ _ => rfl, by decide +kernel, by decide +kernel, by decide +kernel, by decide +kernel⟩

end Sys2Proof.Machine
end

section
/-! PROOF. The block engine (41_des_engine.md R162 to R164). -/

namespace Sys2Proof.Machine

/-- One round: the halves change places, and the round function goes into the new right half (R162). -/
def feistelStep (T : DesTables) (LR : BitVec 32 × BitVec 32) (k : Subkey) : BitVec 32 × BitVec 32 :=
  (LR.2, LR.1 ^^^ feistelRound T LR.2 k)

theorem feistelRounds_eq_foldl (T : DesTables) (ks : List Subkey) (LR : BitVec 32 × BitVec 32) :
    feistelRounds T ks LR = ks.foldl (feistelStep T) LR := by
  induction ks generalizing LR with
  | nil => rfl
  | cons k ks ih => exact ih _

/-- `(Ln, Rn)`: the halves of the block after the first `n` of the given round keys (R162). -/
def halvesAfter (T : DesTables) (B : BitVec 64) (ks : List Subkey) (n : Nat) : BitVec 32 × BitVec 32 :=
  (ks.take n).foldl (feistelStep T) (hiWord (perm B T.ip), loWord (perm B T.ip))

theorem halvesAfter_succ (T : DesTables) (B : BitVec 64) {ks : List Subkey} {n : Nat} (h : n < ks.length) :
    halvesAfter T B ks (n + 1) = feistelStep T (halvesAfter T B ks n) ks[n] :=
  foldl_take_succ _ _ h

/-- The block engine is the halves after all the rounds, swapped, under FP (R162). -/
theorem desBlock_eq_halvesAfter (T : DesTables) (B : BitVec 64) (ks : List Subkey) : desBlock T B ks =
    perm (joinWords (halvesAfter T B ks ks.length).2 (halvesAfter T B ks ks.length).1) T.fp := by
  rw [desBlock, feistelRounds_eq_foldl, halvesAfter, List.take_length]

/-- Settles O36: L and R are `halvesAfter` of the round keys in the order of the direction. -/
theorem blockEngineRounds : Obligations.BlockEngineRounds := by
  intro T B sks out ks h
  obtain ⟨keys, hlen, hkeys, rfl⟩ : ∃ keys : List Subkey, ∃ hlen : keys.length = 16,
      (∀ n : Fin 16, ks n = keys[n]) ∧ out = desBlock T B keys := by
    obtain ⟨rfl, hks⟩ | ⟨rfl, hks⟩ := h
    · exact ⟨sks.toList, by simp, by simpa using hks, rfl⟩
    · exact ⟨sks.toList.reverse, by simp, by simpa using hks, rfl⟩
  refine ⟨fun n => (halvesAfter T B keys n).1, fun n => (halvesAfter T B keys n).2, ?_, ?_, fun n => ?_, ?_⟩
  · exact fun i h1 h2 => elemAt_hiWord _ i h1 h2
  · exact fun i h1 h2 => elemAt_loWord _ i h1 h2
  · have hstep := halvesAfter_succ T B (ks := keys) (n := n.val) (by omega)
    rw [hkeys n]
    exact ⟨congrArg Prod.fst hstep, congrArg Prod.snd hstep⟩
  · rw [desBlock_eq_halvesAfter, hlen]
    rfl

/-- A round on swapped halves undoes the round: its XOR goes in a second time. -/
theorem feistelStep_swap (T : DesTables) (LR : BitVec 32 × BitVec 32) (k : Subkey) :
    feistelStep T (feistelStep T LR k).swap k = LR.swap := by
  simp [feistelStep, Prod.swap]

/-- The rounds on swapped halves, with the keys in reverse order, undo the rounds. -/
theorem foldl_feistelStep_reverse (T : DesTables) (ks : List Subkey) (LR : BitVec 32 × BitVec 32) :
    ks.reverse.foldl (feistelStep T) (ks.foldl (feistelStep T) LR).swap = LR.swap := by
  induction ks generalizing LR with
  | nil => rfl
  | cons k ks ih =>
    rw [List.reverse_cons, List.foldl_append, List.foldl_cons (l := ks), ih]
    exact feistelStep_swap T LR k

/-- The block engine with the reversed keys undoes the block engine, for any number of rounds (R164). -/
theorem desBlock_reverse {T : DesTables} (h : tablesWf T = true) (B : BitVec 64) (ks : List Subkey) :
    desBlock T (desBlock T B ks) ks.reverse = B := by
  have hswap := foldl_feistelStep_reverse T ks (hiWord (perm B T.ip), loWord (perm B T.ip))
  simp only [desBlock, feistelRounds_eq_foldl, perm_fp_perm_ip h, hiWord_joinWords, loWord_joinWords]
  simp only [Prod.swap] at hswap
  rw [hswap, joinWords_words, perm_ip_perm_fp h]

/-- Settles O37: both directions are `desBlock_reverse`, for the subkeys in one order and in the other. -/
theorem decryptInvertsEncrypt : Obligations.DecryptInvertsEncrypt := by
  intro T hT B sks
  refine ⟨desBlock_reverse hT B sks.toList, ?_⟩
  have h := desBlock_reverse hT B sks.toList.reverse
  rwa [List.reverse_reverse] at h

end Sys2Proof.Machine
end

section
/-! PROOF. The complementation property (41_des_engine.md R165): the complement goes through the key schedule and through
each round, whose round function sees the half-block and the subkey only XORed together. -/

namespace Sys2Proof.Machine

theorem keyHalves_not {T : DesTables} (h : entriesIn 64 T.pc1 = true) (K : BitVec 64) :
    keyHalves T (~~~K) = (~~~(keyHalves T K).1, ~~~(keyHalves T K).2) := by
  simp only [keyHalves, perm_not _ (entry_range h)]
  rw [extractLsb'_not _ (by omega), extractLsb'_not _ (by omega)]

theorem subkeysFrom_not {T : DesTables} (h : entriesIn 56 T.pc2 = true) (ks : List Nat) (C D : BitVec 28) :
    subkeysFrom T ks (~~~C) (~~~D) = (subkeysFrom T ks C D).map (~~~·) := by
  induction ks generalizing C D with
  | nil => rfl
  | cons k ks ih =>
    have hperm := perm_not (rotl C k ++ rotl D k) (entry_range h)
    rw [subkeysFrom, subkeysFrom, rotl_not, rotl_not, ← BitVec.not_append, hperm, ih, List.map_cons]

/-- A complemented key has the complemented subkeys. -/
theorem keySchedule_not {T : DesTables} (h : tablesWf T = true) (K : BitVec 64) :
    (keySchedule T (~~~K)).toList = (keySchedule T K).toList.map (~~~·) := by
  obtain ⟨-, -, -, hpc1, hpc2⟩ := tablesWf_clauses h
  simp only [keySchedule, keyHalves_not hpc1, subkeysFrom_not hpc2]
  rfl

/-- Both complements cancel in `E(R) ⊕ Kn`, so the round function does not see them. -/
theorem feistelRound_not {T : DesTables} (h : entriesIn 32 T.e = true) (R : BitVec 32) (k : Subkey) :
    feistelRound T (~~~R) (~~~k) = feistelRound T R k := by
  have hX : expandXor T (~~~R) (~~~k) = expandXor T R k := by
    rw [expandXor, expandXor, perm_not _ (entry_range h), ← BitVec.not_xor_left, ← BitVec.not_xor_right, BitVec.not_not]
  rw [feistelRound, feistelRound, hX]

theorem feistelRounds_not {T : DesTables} (h : entriesIn 32 T.e = true) (ks : List Subkey) (LR : BitVec 32 × BitVec 32) :
    feistelRounds T (ks.map (~~~·)) (~~~LR.1, ~~~LR.2) =
      (~~~(feistelRounds T ks LR).1, ~~~(feistelRounds T ks LR).2) := by
  induction ks generalizing LR with
  | nil => rfl
  | cons k ks ih =>
    rw [List.map_cons, feistelRounds, feistelRounds, feistelRound_not h, ← BitVec.not_xor_left]
    exact ih (LR.2, LR.1 ^^^ feistelRound T LR.2 k)

theorem desBlock_not {T : DesTables} (h : tablesWf T = true) (B : BitVec 64) (ks : List Subkey) :
    desBlock T (~~~B) (ks.map (~~~·)) = ~~~desBlock T B ks := by
  obtain ⟨hip, -, he, -, -⟩ := tablesWf_clauses h
  have hrounds := feistelRounds_not he ks (hiWord (perm B T.ip), loWord (perm B T.ip))
  simp only [desBlock, perm_not _ (entry_range hip), hiWord_not, loWord_not, hrounds, joinWords_not,
    perm_not _ (entry_fp_range h)]

/-- Settles O38: the complemented subkeys (`keySchedule_not`) through the block engine (`desBlock_not`). -/
theorem complementationProperty : Obligations.ComplementationProperty := by
  intro T hT B K
  rw [encrypt, keySchedule_not hT, desBlock_not hT]
  rfl

end Sys2Proof.Machine
end

section
/-! PROOF. The four commands of the Feistel engine (41_des_engine.md R169 to R172), each the case of `Ran` that is met. -/

namespace Sys2Proof.Machine

/-- A word of a command without arguments that is not the command's own word fails with RESERVED_FIELD
(30_encoding.md R94). -/
theorem failsWith_of_ne_noArgs {opc : Byte} (hopc : opc.toNat ≤ 0x04 ∨ opc.toNat = 0x13) (s : State) {w : Word}
    (ho : fieldOPC w = opc) (hw : w ≠ commandWord opc 0 0 0) : FailsWith 0x02 w s := by
  subst ho
  refine failsWith_of_reservedField (decodeWord_eq_reservedField.mpr (reservedNonZero_iff.mpr (.inl ⟨hopc, ?_⟩))) s
  by_contra h
  simp only [not_or, ne_eq, not_not] at h
  obtain ⟨ha, hb, hc⟩ := h
  exact hw (commandWord_eq_of_fields rfl ha hb hc).symm

/-- Settles O19: the command always succeeds, and the worked example is the one of the key schedule. -/
theorem keyScheduleCachesSubkeys : Obligations.KeyScheduleCachesSubkeys := by
  refine ⟨fun s => ⟨by decide, (Ran.keySchedule s).exec_eq, fun w => failsWith_of_ne_noArgs (.inl (by decide)) s⟩,
    fun t ht => ?_⟩
  obtain rfl : _ = t := Host.Outcome.next.inj ((Ran.keySchedule _).exec_eq.symm.trans ht)
  exact ⟨by decide, keySchedule_example⟩

/-- Settles O20: the draw is opaque, so the next state holds for every value of it. -/
theorem keyGenerateLoadsTheDraw : Obligations.KeyGenerateLoadsTheDraw := fun s =>
  ⟨by decide, (Ran.keyGenerate s).exec_eq, fun _ => failsWith_of_ne_noArgs (.inl (by decide)) s⟩

/-- The worked example of R171. -/
theorem encrypt_example :
    encrypt fipsTables 0x0123456789ABCDEF (keySchedule fipsTables 0x133457799BBCDFF1) = 0x85E813540F0AB405 := by
  decide +kernel

/-- Settles O21: the two cases of KEY_VALID. -/
theorem encryptBlockWritesResult : Obligations.EncryptBlockWritesResult :=
  ⟨fun s => ⟨by decide, fun h => (Ran.encryptBlock s h).exec_eq, fun h => (Ran.noKey _ s (.inl rfl) h).exec_eq,
    fun _ => failsWith_of_ne_noArgs (.inl (by decide)) s⟩, encrypt_example⟩

/-- Settles O22: the two cases of KEY_VALID; the round trip and the worked example are `decryptInvertsEncrypt` for the
machine's tables. -/
theorem decryptBlockWritesResult : Obligations.DecryptBlockWritesResult := by
  have hinv := decryptInvertsEncrypt fipsTables tablesWf_fipsTables
  refine ⟨fun s => ⟨by decide, fun h => (Ran.decryptBlock s h).exec_eq, fun h => (Ran.noKey _ s (.inr rfl) h).exec_eq,
    fun h => ?_, fun _ => failsWith_of_ne_noArgs (.inl (by decide)) s⟩, ?_⟩
  · refine ⟨_, _, (Ran.encryptBlock s h).exec_eq, (Ran.decryptBlock _ ?_).exec_eq, (hinv s.data s.sk).1⟩
    exact h
  · rw [← encrypt_example]
    exact (hinv _ _).1

end Sys2Proof.Machine
end

section
/-! PROOF. The two engines share no state (41_des_engine.md R173): a run of a command of one engine is a run of it with any
other values in the elements of the other. -/

namespace Sys2Proof.Machine

/-- `s` with other values in the elements of the rotor engine. -/
def State.withRotorSide (s : State) (rs : Vector Rotor 3) (ws : Vector Letter 26) (c : Byte) : State :=
  { s with rotors := rs, wstage := ws, charOut := c }

/-- `s` with other values in the elements of the Feistel engine, and another count of draws. -/
def State.withFeistelSide (s : State) (K : BitVec 64) (v : Bool) (sk : Vector Subkey 16) (D R : BitVec 64) (n : Nat) :
    State :=
  { s with key := K, keyValid := v, sk := sk, data := D, result := R, draws := n }

/-- The command is one of the Feistel engine (R169 to R172). -/
def isFeistel : Instr → Bool
  | .keySchedule | .keyGenerate | .encryptBlock | .decryptBlock => true
  | .nop | .rotorStageWiring _ _ | .rotorConfigure _ _ _ | .rotorSetPositions _ _ _ | .rotorReset
  | .rotorEncodeChar _ => false

/-- A command of the Feistel engine leaves the rotor engine's elements alone, and does the same with any others. -/
theorem Ran.withRotorSide {i : Instr} {s t : State} (hr : Ran i s t) (hi : isFeistel i = true) :
    (t.rotors = s.rotors ∧ t.wstage = s.wstage ∧ t.charOut = s.charOut) ∧
    ∀ rs ws c, Ran i (s.withRotorSide rs ws c) (t.withRotorSide rs ws c) := by
  cases hr with
  | keySchedule => exact ⟨⟨rfl, rfl, rfl⟩, fun _ _ _ => .keySchedule _⟩
  | keyGenerate => exact ⟨⟨rfl, rfl, rfl⟩, fun _ _ _ => .keyGenerate _⟩
  | encryptBlock _ h => exact ⟨⟨rfl, rfl, rfl⟩, fun _ _ _ => .encryptBlock _ h⟩
  | decryptBlock _ h => exact ⟨⟨rfl, rfl, rfl⟩, fun _ _ _ => .decryptBlock _ h⟩
  | noKey _ _ hi h => exact ⟨⟨rfl, rfl, rfl⟩, fun _ _ _ => .noKey _ _ hi h⟩
  | nop | stage | stageBadIndex | stageBadLetter | configure | configureBadArgument | configureBadWiring | setPositions
  | setPositionsBad | rotorReset | encodeUnconfigured | encodeReject | encodeOther | encodeLetter => cases hi

/-- Every other command leaves the Feistel engine's elements alone, and does the same with any others. -/
theorem Ran.withFeistelSide {i : Instr} {s t : State} (hr : Ran i s t) (hi : isFeistel i = false) :
    (t.key = s.key ∧ t.keyValid = s.keyValid ∧ t.sk = s.sk ∧ t.data = s.data ∧ t.result = s.result ∧ t.draws = s.draws) ∧
    ∀ K v sk D R n, Ran i (s.withFeistelSide K v sk D R n) (t.withFeistelSide K v sk D R n) := by
  constructor
  · cases hr with
    | nop | stage | stageBadIndex | stageBadLetter | configure | configureBadArgument | configureBadWiring | setPositions
    | setPositionsBad | rotorReset | encodeUnconfigured | encodeReject | encodeOther | encodeLetter =>
      exact ⟨rfl, rfl, rfl, rfl, rfl, rfl⟩
    | keySchedule | keyGenerate | encryptBlock | decryptBlock => cases hi
    | noKey _ _ h => obtain rfl | rfl := h <;> cases hi
  · intro K v sk D R n
    cases hr with
    | nop => exact .nop _
    | stage _ _ _ _ _ ha hb => exact .stage _ _ _ _ _ ha hb
    | stageBadIndex _ _ _ ha => exact .stageBadIndex _ _ _ ha
    | stageBadLetter _ _ _ _ ha hb => exact .stageBadLetter _ _ _ _ ha hb
    | configure _ _ _ _ _ _ _ ha hb hc hw => exact .configure _ _ _ _ _ _ _ ha hb hc hw
    | configureBadArgument _ _ _ _ h => exact .configureBadArgument _ _ _ _ h
    | configureBadWiring _ _ _ _ _ _ _ ha hb hc hw => exact .configureBadWiring _ _ _ _ _ _ _ ha hb hc hw
    | setPositions _ _ _ _ _ _ _ ha hb hc => exact .setPositions _ _ _ _ _ _ _ ha hb hc
    | setPositionsBad _ _ _ _ h => exact .setPositionsBad _ _ _ _ h
    | rotorReset => exact .rotorReset _
    | encodeUnconfigured _ _ h => exact .encodeUnconfigured _ _ h
    | encodeReject _ _ h hc => exact .encodeReject _ _ h hc
    | encodeOther _ _ h hc => exact .encodeOther _ _ h hc
    | encodeLetter _ _ _ h hc => exact .encodeLetter _ _ _ h hc
    | keySchedule | keyGenerate | encryptBlock | decryptBlock => cases hi
    | noKey _ _ h => obtain rfl | rfl := h <;> cases hi

/-- Settles O53: the run that `exec_ran` gives, and that run with other values in the other engine's elements. -/
theorem enginesShareNoState : Obligations.EnginesShareNoState := by
  constructor <;> intro i s hi
  · have hf : isFeistel i = true := by rcases hi with rfl | rfl | rfl | rfl <;> rfl
    obtain ⟨t, ht, hr⟩ := exec_ran i s
    obtain ⟨⟨hrotors, hwstage, hchar⟩, hrun⟩ := hr.withRotorSide hf
    exact ⟨t, ht, hrotors, hwstage, hchar, fun rs ws c => (hrun rs ws c).exec_eq⟩
  · have hf : isFeistel i = false := by
      rcases hi with ⟨_, _, rfl⟩ | ⟨_, _, _, rfl⟩ | ⟨_, _, _, rfl⟩ | rfl | ⟨_, rfl⟩ <;> rfl
    obtain ⟨t, ht, hr⟩ := exec_ran i s
    obtain ⟨⟨hkey, hvalid, hsk, hdata, hresult, hdraws⟩, hrun⟩ := hr.withFeistelSide hf
    exact ⟨t, ht, hkey, hvalid, hsk, hdata, hresult, hdraws, fun K v sk D R n => (hrun K v sk D R n).exec_eq⟩

end Sys2Proof.Machine
end

section
/-! SUPPORT. The words of the commands decode to them, and the argument bytes and letter bytes that carry a given value
(30_encoding.md R91 to R93; 42_rotor_engine.md R215, R220 to R224). -/

namespace Sys2Proof

open Sys2Proof.Machine

/-- The word of a command decodes to the command (30_encoding.md R93). -/
theorem decodeWord_encode (i : Instr) : decodeWord (encode i) = .command i := by
  cases i <;> simp [decodeWord, encode, ifReservedZero]

/-- A word whose fields are those of a command's word decodes to the command. -/
theorem decodeWord_of_fields {w : Word} {opc a b c : Byte} {i : Instr} (hi : encode i = commandWord opc a b c)
    (ho : fieldOPC w = opc) (ha : fieldA w = a) (hb : fieldB w = b) (hc : fieldC w = c) : decodeWord w = .command i := by
  rw [← decodeWord_encode i, hi, commandWord_eq_of_fields (congrArg BitVec.toNat ho) ha hb hc]

end Sys2Proof

namespace Sys2Proof.Machine

/-! ### Argument bytes -/

@[simp] theorem indexArg_ofNat (k : Letter) : indexArg (BitVec.ofNat 8 k.val) = some k := by
  rw [indexArg_eq_some, BitVec.toNat_ofNat]
  omega

@[simp] theorem rotorArg_ofNat (r : RotorNo) : rotorArg (BitVec.ofNat 8 r.val) = some r := by
  rw [rotorArg_eq_some, BitVec.toNat_ofNat]
  omega

/-- A byte up to 25 is an index. -/
theorem exists_indexArg {b : Byte} (h : b.toNat ≤ 25) : ∃ k, indexArg b = some k :=
  ⟨⟨b.toNat, by omega⟩, indexArg_eq_some.mpr rfl⟩

/-- A byte up to 2 is a rotor number. -/
theorem exists_rotorArg {b : Byte} (h : b.toNat ≤ 2) : ∃ r, rotorArg b = some r :=
  ⟨⟨b.toNat, by omega⟩, rotorArg_eq_some.mpr rfl⟩

/-! ### Letter bytes -/

@[simp] theorem upperIndex_chr (x : Letter) : upperIndex (chr x) = some x := upperIndex_eq_some.mpr (chr_toNat x)

@[simp] theorem charClass_chr (x : Letter) : charClass (chr x) = .letter x := charClass_eq_letter.mpr (chr_toNat x)

/-- A byte of a letter is the letter's own byte (00_scope.md R13). -/
theorem chr_of_upperIndex {b : Byte} {x : Letter} (h : upperIndex b = some x) : chr x = b := by
  rw [upperIndex_eq_some] at h
  exact BitVec.eq_of_toNat_eq ((chr_toNat x).trans h.symm)

/-- Staging takes an upper-case letter byte as its index (42_rotor_engine.md R220). -/
theorem wiringArg_upper (v : Letter) : wiringArg (BitVec.ofNat 8 (0x41 + v.val)) = some v :=
  wiringArg_eq_some.mpr (.inl (chr_toNat v))

/-- Staging takes a lower-case letter byte as its index (42_rotor_engine.md R220). -/
theorem wiringArg_lower (v : Letter) : wiringArg (BitVec.ofNat 8 (0x61 + v.val)) = some v := by
  rw [wiringArg_eq_some, BitVec.toNat_ofNat]
  omega

/-- No letter is refused (42_rotor_engine.md R215). -/
theorem isRejectByte_chr (x : Letter) : isRejectByte (chr x) = false := by
  rw [Bool.eq_false_iff, ne_eq, ← charClass_eq_reject, charClass_chr]
  simp

end Sys2Proof.Machine
end

section
/-! PROOF. The unit maps, the reflector and the signal path at fixed positions (42_rotor_engine.md R201 to R205, R214). The
signal path is the reflector conjugated by the forward maps of the three units, so it inherits that it is an involution
without a fixed point. -/

namespace Sys2Proof.Machine

/-! ### The reflector -/

theorem refl_val (x : Letter) : (refl x).val = 25 - x.val := by
  simp only [refl, Fin.val_sub]
  omega

@[simp] theorem refl_refl (x : Letter) : refl (refl x) = x := by
  rw [Fin.ext_iff, refl_val, refl_val]
  omega

theorem refl_ne (x : Letter) : refl x ≠ x := by
  rw [ne_eq, Fin.ext_iff, refl_val]
  omega

/-! ### One unit -/

/-- The subtraction of a position, as integers (42_rotor_engine.md R201, R202). -/
theorem letter_sub_val (a p : Letter) : (a - p).val = (a.val + 26 - p.val) % 26 := by
  rw [Fin.val_sub]
  omega

/-- Settles O39: the contact is the sum modulo 26, and the position is taken off again (`letter_sub_val`). -/
theorem unitMapsAndReflector : Obligations.UnitMapsAndReflector := by
  refine ⟨fun R x y hy => ?_, fun x => ⟨refl_val x, refl_refl x, refl_ne x⟩⟩
  obtain rfl : y = x + R.pos := Fin.ext (hy.trans (Fin.val_add x R.pos).symm)
  exact ⟨letter_sub_val _ _, letter_sub_val _ _⟩

/-- REV inverts WIRING on the other side too, since WIRING reaches every contact (10_state.md R30). -/
theorem RotorOk.wiring_rev {R : Rotor} (h : RotorOk R) (hcfg : R.cfg = true) (j : Letter) : R.wiring[R.rev[j]] = j := by
  obtain ⟨⟨-, hsurj⟩, hrev⟩ := h hcfg
  obtain ⟨i, rfl⟩ := hsurj j
  simp only [hrev]

theorem RotorOk.bwd_fwd {R : Rotor} (h : RotorOk R) (hcfg : R.cfg = true) (x : Letter) : bwd R (fwd R x) = x := by
  obtain ⟨-, hrev⟩ := h hcfg
  simp only [bwd, fwd, sub_add_cancel, hrev, add_sub_cancel_right]

theorem RotorOk.fwd_bwd {R : Rotor} (h : RotorOk R) (hcfg : R.cfg = true) (x : Letter) : fwd R (bwd R x) = x := by
  simp only [fwd, bwd, sub_add_cancel, h.wiring_rev hcfg, add_sub_cancel_right]

/-- Settles O40: the two inverse laws, and a map with a two-sided inverse is a bijection. -/
theorem unitMapsInvert : Obligations.UnitMapsInvert := fun _ h hcfg =>
  ⟨fun x => ⟨h.bwd_fwd hcfg x, h.fwd_bwd hcfg x⟩,
    Function.bijective_iff_has_inverse.mpr ⟨_, h.bwd_fwd hcfg, h.fwd_bwd hcfg⟩⟩

/-! ### The signal path -/

/-- Every rotor of the bank is configured, and good: what the letter path needs of a bank. -/
def BankReady (rs : Vector Rotor 3) : Prop := ∀ r : RotorNo, RotorOk rs[r] ∧ rs[r].cfg = true

/-- Forward through the three units, right to left: the first half of the signal path (42_rotor_engine.md R213). -/
def bankFwd (rs : Vector Rotor 3) (x : Letter) : Letter := fwd rs[2] (fwd rs[1] (fwd rs[0] x))

/-- Backward through the three units, left to right: the second half of the signal path (42_rotor_engine.md R213). -/
def bankBwd (rs : Vector Rotor 3) (x : Letter) : Letter := bwd rs[0] (bwd rs[1] (bwd rs[2] x))

theorem signalPath_eq (rs : Vector Rotor 3) (x : Letter) : signalPath rs x = bankBwd rs (refl (bankFwd rs x)) := rfl

theorem BankReady.bankBwd_bankFwd {rs : Vector Rotor 3} (h : BankReady rs) (x : Letter) : bankBwd rs (bankFwd rs x) = x := by
  have hunit (r : RotorNo) : Function.LeftInverse (bwd rs[r]) (fwd rs[r]) := (h r).1.bwd_fwd (h r).2
  exact ((hunit 2).comp (hunit 1)).comp (hunit 0) x

theorem BankReady.bankFwd_bankBwd {rs : Vector Rotor 3} (h : BankReady rs) (x : Letter) : bankFwd rs (bankBwd rs x) = x := by
  have hunit (r : RotorNo) : Function.LeftInverse (fwd rs[r]) (bwd rs[r]) := (h r).1.fwd_bwd (h r).2
  exact ((hunit 0).comp (hunit 1)).comp (hunit 2) x

theorem BankReady.signalPath_signalPath {rs : Vector Rotor 3} (h : BankReady rs) (x : Letter) :
    signalPath rs (signalPath rs x) = x := by
  simp only [signalPath_eq, h.bankFwd_bankBwd, refl_refl, h.bankBwd_bankFwd]

/-- A letter that came out as itself would be, passed forward, a fixed point of the reflector. -/
theorem BankReady.signalPath_ne {rs : Vector Rotor 3} (h : BankReady rs) (x : Letter) : signalPath rs x ≠ x := by
  intro hx
  rw [signalPath_eq] at hx
  refine refl_ne (bankFwd rs x) ?_
  rw [← h.bankFwd_bankBwd (refl (bankFwd rs x)), hx]

/-- Settles O43: the laws of the reflector, through the inverse halves of the path. -/
theorem signalPathSelfInverse : Obligations.SignalPathSelfInverse := fun _ h x =>
  ⟨BankReady.signalPath_signalPath h x, BankReady.signalPath_ne h x⟩

end Sys2Proof.Machine
end

section
/-! PROOF. Stepping (42_rotor_engine.md R210, R211, R225): what a machine step does to each position, and the positions
after any number of steps. -/

namespace Sys2Proof.Machine

/-- A machine step moves rotors, and does nothing else to them (42_rotor_engine.md R210). -/
theorem stepAll_at (rs : Vector Rotor 3) (r : RotorNo) : (stepAll rs)[r] = rs[r].at (stepAll rs)[r].pos := by
  have hmove (b : Bool) (R : Rotor) : (if b then rotateUnit R else R) = R.at (if b then rotateUnit R else R).pos := by
    cases b <;> rfl
  obtain ⟨h0, h1, h2⟩ := stepAll_get rs
  fin_cases r
  · exact h0 ▸ rfl
  · exact h1 ▸ hmove _ rs[1]
  · exact h2 ▸ hmove _ rs[2]

theorem stepAll_cfg (rs : Vector Rotor 3) (r : RotorNo) : (stepAll rs)[r].cfg = rs[r].cfg := by
  rw [stepAll_at, Rotor.at_cfg]

theorem stepAll_notch (rs : Vector Rotor 3) (r : RotorNo) : (stepAll rs)[r].notch = rs[r].notch := by
  rw [stepAll_at, Rotor.at_notch]

/-- A rotor that rotates carries when its new position, an integer modulo 26, is its notch (42_rotor_engine.md R210). -/
theorem carry_rotateUnit (R : Rotor) : carry (rotateUnit R) = true ↔ (R.pos.val + 1) % 26 = R.notch.val := by
  rw [carry, beq_iff_eq, rotateUnit_pos, rotateUnit_notch, Fin.ext_iff, Fin.val_add]
  rfl

/-- Settles O41: the carries are those of the two rotors once rotated (`carry_rotateUnit`), and they select the rotors that
move (`stepAll_get`). -/
theorem stepAllSingleCarry : Obligations.StepAllSingleCarry := by
  intro rs
  obtain ⟨h0, h1, h2⟩ := stepAll_get rs
  refine ⟨stepAll rs, carry (rotateUnit rs[0]) = true, carry (rotateUnit rs[1]) = true, rfl, stepAll_at rs,
    carry_rotateUnit _, carry_rotateUnit _, ?_, fun hc => ?_, fun hc => ?_, fun hc => ?_, fun hc => ?_⟩
  · rw [h0]
    exact Fin.val_add _ _
  · rw [h1, if_pos hc]
    exact Fin.val_add _ _
  · rw [h1, if_neg hc]
  · rw [h2, if_pos (by simpa using hc)]
    exact Fin.val_add _ _
  · rw [h2, if_neg (by simpa using hc)]

/-! ### Positions alone -/

/-- The three positions after a machine step from `p`, with notches `n0` and `n1` on the rightmost and the middle rotor
(42_rotor_engine.md R211). -/
def stepPositions (n0 n1 : Letter) (p : Letter × Letter × Letter) : Letter × Letter × Letter :=
  let (p0, p1, p2) := p
  (p0 + 1, if p0 + 1 = n0 then p1 + 1 else p1, if p0 + 1 = n0 ∧ p1 + 1 = n1 then p2 + 1 else p2)

/-- The three positions of a bank, rightmost first. -/
def positions (rs : Vector Rotor 3) : Letter × Letter × Letter := (rs[0].pos, rs[1].pos, rs[2].pos)

theorem positions_stepAll (rs : Vector Rotor 3) :
    positions (stepAll rs) = stepPositions rs[0].notch rs[1].notch (positions rs) := by
  obtain ⟨h0, h1, h2⟩ := stepAll_get rs
  simp only [positions, stepPositions, h0, h1, h2, carry, Bool.and_eq_true, beq_iff_eq, rotateUnit_pos, rotateUnit_notch,
    apply_ite Rotor.pos]
  rfl

theorem positions_iterate_stepAll (n : Nat) (rs : Vector Rotor 3) :
    positions (stepAll^[n] rs) = (stepPositions rs[0].notch rs[1].notch)^[n] (positions rs) := by
  induction n generalizing rs with
  | zero => rfl
  | succ n ih =>
    have h0 : (stepAll rs)[0].notch = rs[0].notch := stepAll_notch rs 0
    have h1 : (stepAll rs)[1].notch = rs[1].notch := stepAll_notch rs 1
    rw [Function.iterate_succ_apply, Function.iterate_succ_apply, ih, h0, h1, positions_stepAll]

/-- The positions of a bank as a list. -/
theorem toList_map_pos (rs : Vector Rotor 3) :
    rs.toList.map Rotor.pos = [(positions rs).1, (positions rs).2.1, (positions rs).2.2] := by
  obtain ⟨⟨l⟩, hl⟩ := rs
  match l, hl with
  | [_, _, _], _ => rfl

/-- Settles O45: the positions evolve on their own (`positions_iterate_stepAll`), here for each of the 26 middle notches. -/
theorem notchPropagation : Obligations.NotchPropagation := by
  intro rs hpos hnotch
  have h0 : positions rs = (0, 0, 0) := congrArg₂ Prod.mk (hpos 0) (congrArg₂ Prod.mk (hpos 1) (hpos 2))
  simp only [toList_map_pos, positions_iterate_stepAll, h0, hnotch]
  generalize rs[1].notch = n1
  revert n1
  decide

end Sys2Proof.Machine
end

section
/-! PROOF. The five commands of the rotor engine (42_rotor_engine.md R220 to R224), each the case of `Ran` that is met. -/

namespace Sys2Proof.Machine

/-- Settles O23: the entry written is `setEntry`, and the failures are the two checks of the rule. -/
theorem stageWiringWritesOneEntry : Obligations.StageWiringWritesOneEntry := by
  refine fun s => ⟨fun k v => ⟨setEntry s.wstage k v, ?_, ?_, setEntry_same .., fun j => setEntry_other _ _ _ j⟩,
    ?_, ?_, ?_, ?_⟩
  · exact (Ran.stage s _ _ k v (indexArg_ofNat k) (wiringArg_upper v)).exec_eq
  · exact (Ran.stage s _ _ k v (indexArg_ofNat k) (wiringArg_lower v)).exec_eq
  · exact fun a b ha => (Ran.stageBadIndex s a b (indexArg_eq_none.mpr ha)).exec_eq
  · intro a b ha hupper hlower
    obtain ⟨k, hk⟩ := exists_indexArg ha
    have hb : wiringArg b = none := by
      rw [wiringArg, upperIndex_eq_none.mpr hupper, lowerIndex_eq_none.mpr hlower, Option.none_or]
    exact (Ran.stageBadLetter s a b k hk hb).exec_eq
  · exact fun w ho hc => decodeWord_of_fields rfl ho rfl rfl hc
  · exact fun w ho hc => reservedFieldWordsFail.1 s w (.inr (.inl ⟨congrArg BitVec.toNat ho, hc⟩))

/-- Settles O24: the rotor written is `configured`, whose reverse table is the inverse (`reverseInto_inverse`); the failures
are the range checks, then the bijection check. -/
theorem configureBuildsRotor : Obligations.ConfigureBuildsRotor := by
  refine fun s => ⟨fun r n p hw => ⟨reverseInto s.rotors[r].rev s.wstage, ?_, reverseInto_inverse _ _ hw⟩, ?_, ?_, ?_⟩
  · exact (Ran.configure s _ _ _ r n p (rotorArg_ofNat r) (indexArg_ofNat n) (indexArg_ofNat p)
      ((isBijection_iff _).mpr hw)).exec_eq
  · intro a b c h
    rw [← rotorArg_eq_none, ← indexArg_eq_none, ← indexArg_eq_none] at h
    exact (Ran.configureBadArgument s a b c h).exec_eq
  · intro a b c ha hb hc hw
    obtain ⟨r, hr⟩ := exists_rotorArg ha
    obtain ⟨n, hn⟩ := exists_indexArg hb
    obtain ⟨p, hp⟩ := exists_indexArg hc
    rw [← isBijection_iff, Bool.not_eq_true] at hw
    exact (Ran.configureBadWiring s a b c r n p hr hn hp hw).exec_eq
  · exact fun w ho => decodeWord_of_fields rfl ho rfl rfl rfl

/-- Settles O25: the bank written is `atPositions`, and the failure is the range check. -/
theorem setPositionsWritesPos : Obligations.SetPositionsWritesPos := by
  refine fun s => ⟨fun p0 p1 p2 => ⟨atPositions s.rotors p0 p1 p2, ?_, rfl, rfl, rfl⟩, ?_, ?_⟩
  · exact (Ran.setPositions s _ _ _ p0 p1 p2 (indexArg_ofNat p0) (indexArg_ofNat p1) (indexArg_ofNat p2)).exec_eq
  · intro a b c h
    rw [← indexArg_eq_none, ← indexArg_eq_none, ← indexArg_eq_none] at h
    exact (Ran.setPositionsBad s a b c h).exec_eq
  · exact fun w ho => decodeWord_of_fields rfl ho rfl rfl rfl

/-- Resetting the positions twice is resetting them once (42_rotor_engine.md R223). -/
theorem atInit_atInit (rs : Vector Rotor 3) : atInit (atInit rs) = atInit rs := by
  simp only [atInit, Vector.map_map]
  rfl

/-- Settles O26: the bank written is `atInit`, which is idempotent. -/
theorem rotorResetRestoresInit : Obligations.RotorResetRestoresInit := by
  refine fun s => ⟨by decide, ⟨atInit s.rotors, (Ran.rotorReset s).exec_eq, atInit_get s.rotors, ?_⟩,
    fun w => failsWith_of_ne_noArgs (.inr (by decide)) s⟩
  rw [(Ran.rotorReset _).exec_eq]
  simp only [atInit_atInit]
  rfl

/-! ### ROTOR_ENCODE_CHAR -/

/-- Settles O28: one lemma of the operand layer for each class, whose conditions are ranges of the byte's number. -/
theorem charClasses : Obligations.CharClasses := by
  intro c
  refine ⟨?_, ?_, ?_⟩
  · simp only [charClass_eq_letter, and_self]
    constructor
    · rintro ⟨x, hx⟩
      omega
    · exact fun h => ⟨⟨c.toNat - 0x41, by omega⟩, by simp only; omega⟩
  · rw [charClass_eq_reject, isRejectByte]
    simp only [Bool.or_eq_true, decide_eq_true_eq, beq_iff_eq]
    omega
  · rw [charClass_eq_other, upperIndex_eq_none, ne_eq, charClass_eq_reject, Bool.not_eq_true]

theorem allConfigured_iff {s : State} : allConfigured s = true ↔ ∀ r : RotorNo, s.rotors[r].cfg = true := by
  simp only [allConfigured, State.cfg, Bool.and_eq_true]
  constructor
  · rintro ⟨⟨h0, h1⟩, h2⟩ r
    fin_cases r
    · exact h0
    · exact h1
    · exact h2
  · exact fun h => ⟨⟨h 0, h 1⟩, h 2⟩

/-- A machine step keeps a bank ready for the letter path. -/
theorem BankReady.stepAll {rs : Vector Rotor 3} (h : BankReady rs) : BankReady (stepAll rs) := fun r =>
  ⟨BankOk.stepAll (fun q => (h q).1) r, (stepAll_cfg rs r).trans (h r).2⟩

/-- Settles O27: the four cases of `Ran`; a letter does not come out as itself by `BankReady.signalPath_ne`. -/
theorem encodeCharWritesCharOut : Obligations.EncodeCharWritesCharOut := by
  refine fun s => ⟨fun hcfg => ?_, ?_, ?_, ?_⟩
  · have hall : allConfigured s = true := allConfigured_iff.mpr hcfg
    refine ⟨fun x => ⟨_, signalPath (stepAll s.rotors) x, rfl, rfl, ?_, fun hok => ?_⟩,
      fun c hupper => ⟨fun hc => ?_, fun hc => ?_⟩⟩
    · exact (Ran.encodeLetter s _ x hall (charClass_chr x)).exec_eq
    · exact BankReady.signalPath_ne (BankReady.stepAll fun r => ⟨hok r, hcfg r⟩) x
    · exact (Ran.encodeOther s c hall (charClass_eq_other.mpr ⟨upperIndex_eq_none.mpr hupper, hc⟩)).exec_eq
    · exact (Ran.encodeReject s c hall (charClass_eq_reject.mpr hc)).exec_eq
  · rintro ⟨r, hr⟩ c
    have hall : allConfigured s = false := by
      rw [Bool.eq_false_iff, ne_eq, allConfigured_iff]
      exact fun h => Bool.noConfusion ((h r).symm.trans hr)
    exact (Ran.encodeUnconfigured s c hall).exec_eq
  · exact fun w ho hb hc => decodeWord_of_fields rfl ho rfl hb hc
  · exact fun w ho h => reservedFieldWordsFail.1 s w (.inr (.inr ⟨congrArg BitVec.toNat ho, h⟩))

end Sys2Proof.Machine
end

section
/-! PROOF. Streams of characters through the host's `encode` (42_rotor_engine.md R212, R214; 45_host_software.md R278). What
one character does to the bank and the byte that comes out are functions of the bank and the character alone; a text folds
them, and the two facts about one character (`encodedByte_encodedByte`, `bankAfter_encodedByte`) give the round trip. -/

namespace Sys2Proof.Machine

/-! ### The host's `encode` of one character -/

/-- STATUS shows the host the code ERR (10_state.md R38). -/
@[simp] theorem statusErr_eq (s : State) : statusErr s = s.err := (statusWord_upper_fields s).2.1

/-- A read of CHAR_OUT shows the host the byte (10_state.md R36). -/
theorem charOut_read (s : State) : (busRead 0x28 s).setWidth 8 = s.charOut := (setWidth_byte_fields s.charOut).1

/-- The host's write of a command's word runs the command (45_host_software.md R278). -/
theorem serve_cmdEvent (i : Instr) (s : State) : serve (cmdEvent i) s = exec i s := by
  show issueCommand (encode i) s = exec i s
  rw [issueCommand, decodeWord_encode]

/-- A command that succeeds on the core succeeds for the host (45_host_software.md R278). -/
theorem hostCommand_of_exec {i : Instr} {s t : State} (h : exec i s = .next t) (herr : t.err = okCode) :
    hostCommand i s = .ok t := by
  have hacc : hostAccesses [cmdEvent i] s = .ok t := by simp only [hostAccesses, serve_cmdEvent, h]
  have hok : statusErr t = 0 := (statusErr_eq t).trans herr
  simp only [hostCommand, hacc, if_pos hok]

/-- The bank after one character that is not refused: stepped by a letter, kept by any other (42_rotor_engine.md R213). -/
def bankAfter (rs : Vector Rotor 3) (c : Byte) : Vector Rotor 3 := if (upperIndex c).isSome then stepAll rs else rs

/-- The byte that comes out for one character that is not refused (42_rotor_engine.md R213). -/
def encodedByte (rs : Vector Rotor 3) (c : Byte) : Byte :=
  ((upperIndex c).map fun x => chr (signalPath (stepAll rs) x)).getD c

/-- The bytes that come out for a text, each with the bank the characters before it leave. -/
def encodedText : List Byte → Vector Rotor 3 → List Byte
  | [], _ => []
  | c :: cs, rs => encodedByte rs c :: encodedText cs (bankAfter rs c)

/-- The state after ROTOR_ENCODE_CHAR of a character that is not refused, with all rotors configured. -/
def State.encodedChar (s : State) (c : Byte) : State :=
  State.succeeded { s with rotors := bankAfter s.rotors c, charOut := encodedByte s.rotors c }

theorem ran_encodeChar {s : State} (hcfg : allConfigured s = true) {c : Byte} (hc : isRejectByte c = false) :
    Ran (.rotorEncodeChar c) s (s.encodedChar c) := by
  unfold State.encodedChar
  cases hx : upperIndex c with
  | none =>
    simp only [bankAfter, encodedByte, hx]
    exact .encodeOther s c hcfg (charClass_eq_other.mpr ⟨hx, hc⟩)
  | some x =>
    simp only [bankAfter, encodedByte, hx]
    exact .encodeLetter s c x hcfg (charClass_eq_letter.mpr (upperIndex_eq_some.mp hx))

theorem bankAfter_cfg (rs : Vector Rotor 3) (c : Byte) (r : RotorNo) : (bankAfter rs c)[r].cfg = rs[r].cfg := by
  unfold bankAfter
  split
  · exact stepAll_cfg rs r
  · rfl

/-- The host's `encode` of a text without REJECT bytes completes, with the bytes and the bank of the two folds. -/
theorem hostEncode_eq (text : List Byte) (s : State) (hcfg : ∀ r : RotorNo, s.rotors[r].cfg = true)
    (htext : ∀ c ∈ text, isRejectByte c = false) :
    ∃ t, hostEncode text s = .ok (encodedText text s.rotors, t) ∧ t.rotors = text.foldl bankAfter s.rotors := by
  induction text generalizing s with
  | nil => exact ⟨s, rfl, rfl⟩
  | cons c cs ih =>
    rw [List.forall_mem_cons] at htext
    obtain ⟨hc, hcs⟩ := htext
    have hcmd := hostCommand_of_exec (ran_encodeChar (allConfigured_iff.mpr hcfg) hc).exec_eq rfl
    obtain ⟨u, hu, hbank⟩ := ih (s.encodedChar c) (fun r => (bankAfter_cfg s.rotors c r).trans (hcfg r)) hcs
    refine ⟨u, ?_, hbank⟩
    simp only [hostEncode, hcmd, hu, charOut_read]
    rfl

/-- Folding a text over the bank steps it once for each letter (42_rotor_engine.md R212). -/
theorem foldl_bankAfter (text : List Byte) (rs : Vector Rotor 3) : text.foldl bankAfter rs =
    stepAll^[text.countP fun c => decide (0x41 ≤ c.toNat ∧ c.toNat ≤ 0x5A)] rs := by
  induction text generalizing rs with
  | nil => rfl
  | cons c cs ih =>
    rw [List.foldl_cons, ih]
    by_cases hc : 0x41 ≤ c.toNat ∧ c.toNat ≤ 0x5A
    · have hx : upperIndex c ≠ none := fun h => upperIndex_eq_none.mp h hc
      rw [List.countP_cons_of_pos (by simpa using hc), Function.iterate_succ_apply, bankAfter,
        if_pos (Option.isSome_iff_ne_none.mpr hx)]
    · rw [List.countP_cons_of_neg (by simpa using hc), bankAfter, upperIndex_eq_none.mpr hc]
      rfl

/-- Settles O42: the bank a text leaves (`hostEncode_eq`) counts the letters alone (`foldl_bankAfter`). -/
theorem steppingCountsLetters : Obligations.SteppingCountsLetters := by
  intro s text hcfg htext
  obtain ⟨t, ht, hbank⟩ := hostEncode_eq text s hcfg htext
  exact ⟨_, t, ht, hbank.trans (foldl_bankAfter text s.rotors)⟩

/-! ### The round trip -/

/-- Two banks are equal when they are rotor by rotor. -/
theorem bank_ext {rs qs : Vector Rotor 3} (h : ∀ r : RotorNo, rs[r] = qs[r]) : rs = qs :=
  Vector.ext fun k hk => h ⟨k, hk⟩

theorem BankReady.bankAfter {rs : Vector Rotor 3} (h : BankReady rs) (c : Byte) : BankReady (bankAfter rs c) := by
  unfold Machine.bankAfter
  split
  · exact h.stepAll
  · exact h

/-- The byte of a letter is the byte of a letter, and any other byte is as it was: so it steps the bank the same. -/
theorem bankAfter_encodedByte (rs : Vector Rotor 3) (c : Byte) : bankAfter rs (encodedByte rs c) = bankAfter rs c := by
  cases hx : upperIndex c <;> simp [bankAfter, encodedByte, hx]

theorem isRejectByte_encodedByte (rs : Vector Rotor 3) {c : Byte} (hc : isRejectByte c = false) :
    isRejectByte (encodedByte rs c) = false := by
  cases hx : upperIndex c <;> simp [encodedByte, hx, hc, isRejectByte_chr]

/-- At the same positions the byte that came out goes back to the one that went in (42_rotor_engine.md R214). -/
theorem encodedByte_encodedByte {rs : Vector Rotor 3} (h : BankReady rs) (c : Byte) :
    encodedByte rs (encodedByte rs c) = c := by
  cases hx : upperIndex c with
  | none => simp [encodedByte, hx]
  | some x => simp [encodedByte, hx, h.stepAll.signalPath_signalPath, chr_of_upperIndex hx]

theorem encodedText_encodedText {rs : Vector Rotor 3} (h : BankReady rs) (text : List Byte) :
    encodedText (encodedText text rs) rs = text := by
  induction text generalizing rs with
  | nil => rfl
  | cons c cs ih => simp only [encodedText, encodedByte_encodedByte h, bankAfter_encodedByte, ih (h.bankAfter c)]

theorem isRejectByte_encodedText {text : List Byte} (htext : ∀ c ∈ text, isRejectByte c = false) (rs : Vector Rotor 3) :
    ∀ c ∈ encodedText text rs, isRejectByte c = false := by
  induction text generalizing rs with
  | nil => exact htext
  | cons c cs ih =>
    rw [List.forall_mem_cons] at htext
    exact List.forall_mem_cons.mpr ⟨isRejectByte_encodedByte rs htext.1, ih htext.2 _⟩

/-- Stepping does not touch what ROTOR_RESET restores. -/
theorem atInit_bankAfter (rs : Vector Rotor 3) (c : Byte) : atInit (bankAfter rs c) = atInit rs := by
  unfold bankAfter
  split
  · refine bank_ext fun r => ?_
    rw [atInit_get, atInit_get, stepAll_at, Rotor.at_init]
    rfl
  · rfl

theorem atInit_foldl_bankAfter (text : List Byte) (rs : Vector Rotor 3) :
    atInit (text.foldl bankAfter rs) = atInit rs := by
  induction text generalizing rs with
  | nil => rfl
  | cons c cs ih => rw [List.foldl_cons, ih, atInit_bankAfter]

/-- A bank at its initial positions is what ROTOR_RESET restores. -/
theorem atInit_eq_self {rs : Vector Rotor 3} (h : ∀ r : RotorNo, rs[r].pos = rs[r].init) : atInit rs = rs :=
  bank_ext fun r => by
    rw [atInit_get, ← h r]
    rfl

/-- Settles O44: ROTOR_RESET restores the bank the text was encoded from, where the two encodings cancel
(`encodedText_encodedText`). -/
theorem rotorStreamRoundTrip : Obligations.RotorStreamRoundTrip := by
  intro s text h htext
  have hready : BankReady s.rotors := fun r => ⟨(h r).1, (h r).2.1⟩
  obtain ⟨t, ht, htbank⟩ := hostEncode_eq text s (fun r => (hready r).2) htext
  have hreset : atInit t.rotors = s.rotors := by
    rw [htbank, atInit_foldl_bankAfter, atInit_eq_self fun r => (h r).2.2]
  let u : State := State.succeeded { t with rotors := atInit t.rotors }
  have hu : u.rotors = s.rotors := hreset
  obtain ⟨v, hv, -⟩ := hostEncode_eq (encodedText text s.rotors) u (fun r => by rw [hu]; exact (hready r).2)
    (isRejectByte_encodedText htext _)
  rw [hu, encodedText_encodedText hready] at hv
  exact ⟨_, t, u, v, ht, (Ran.rotorReset t).exec_eq, hv⟩

end Sys2Proof.Machine
end

section
/-! PROOF. NOP, and the words with an unassigned OPC (43_control.md R250, R251). -/

namespace Sys2Proof.Machine

/-- A word with an unassigned OPC on CMD fails with ILLEGAL_OPCODE (30_encoding.md R95). -/
theorem failsWith_of_unassigned {w : Word} (h : assignedOPC (fieldOPC w).toNat = false) (s : State) : FailsWith 0x01 w s := by
  intro rest
  rw [step_write_cmd, issueCommand, decodeWord_eq_illegalOpcode.mpr h]
  rfl

/-- Settles O6: the two ranges of OPC are the unassigned codes. -/
theorem illegalWordsFail : Obligations.IllegalWordsFail := by
  intro s w hopc
  have hunassigned : assignedOPC (fieldOPC w).toNat = false := decide_eq_false (by omega)
  exact failsWith_of_unassigned hunassigned s

/-- STATUS with ERR cleared is the low byte of STATUS: ERR is all that stands above it (10_state.md R38). -/
theorem statusWord_clearErr (s : State) :
    statusWord { s with err := 0x00 } = ((statusWord s).extractLsb' 0 8).setWidth 32 := by
  refine BitVec.eq_of_getLsbD_eq fun i hi => ?_
  simp only [getLsbD_statusWord, BitVec.getLsbD_setWidth, BitVec.getLsbD_extractLsb', hi]
  by_cases h8 : i < 8
  · have hflag : ¬ 8 ≤ i := by omega
    simp [h8, hflag]
  · have herr : i ≠ 4 ∧ i ≠ 3 ∧ i ≠ 2 ∧ i ≠ 1 ∧ i ≠ 0 := by omega
    simp [h8, herr]

/-- Settles O18: NOP always succeeds; a word with its OPC and a field that is not zero is not its word; and the example is
`statusWord_clearErr`. -/
theorem nopClearsErr : Obligations.NopClearsErr := by
  refine fun s => ⟨by decide, (Ran.nop s).exec_eq, fun w => failsWith_of_ne_noArgs (.inl (by decide)) s, fun h => ?_⟩
  rw [statusWord_clearErr, h]
  decide

end Sys2Proof.Machine
end

section
/-! PROOF. The host's codecs (45_host_software.md R270 to R274). A bit string whose length is a multiple of `n` is the
elements of a list of `n`-bit vectors (`exists_eq_flatMap_elemsOf`), and cutting it gives that list back
(`pieces_flatMap_elemsOf`): bytes, hexadecimal digits and 64-bit blocks are the cases `n` = 8, 4 and 64. -/

namespace Sys2Proof.Machine

/-! ### Bit strings as lists of vectors -/

@[simp] theorem length_flatMap_elemsOf {n : Nat} (vs : List (BitVec n)) : (vs.flatMap elemsOf).length = n * vs.length := by
  simp [List.length_flatMap, Nat.mul_comm]

/-- A bit string of whole pieces is the elements of a list of vectors. -/
theorem exists_eq_flatMap_elemsOf {n : Nat} {bits : List Bool} (h : bits.length % n = 0) :
    ∃ vs : List (BitVec n), bits = vs.flatMap elemsOf := by
  obtain ⟨k, hk⟩ := Nat.dvd_of_mod_eq_zero h
  obtain ⟨hjoin, hlen⟩ := pieces_spec n k bits hk
  have hback : (pieces n k bits).map (elemsOf ∘ ofElems n) = pieces n k bits :=
    (List.map_congr_left fun p hp => elemsOf_ofElems p (hlen p hp)).trans (List.map_id' _)
  refine ⟨(pieces n k bits).map (ofElems n), ?_⟩
  rw [List.flatMap_def, List.map_map, hback, hjoin]

/-- Cutting the elements of a list of vectors into pieces gives the elements of each. -/
theorem pieces_length_flatMap_elemsOf {n : Nat} (vs : List (BitVec n)) :
    pieces n vs.length (vs.flatMap elemsOf) = vs.map elemsOf := by
  induction vs with
  | nil => rfl
  | cons v vs ih =>
    rw [List.length_cons, List.flatMap_cons, pieces, List.take_left' (length_elemsOf v), List.drop_left' (length_elemsOf v),
      ih, List.map_cons]

/-- The number of pieces the host cuts (45_host_software.md R271, R275) is the number of vectors. -/
theorem pieces_flatMap_elemsOf {n : Nat} (hn : 0 < n) (vs : List (BitVec n)) :
    pieces n ((vs.flatMap elemsOf).length / n) (vs.flatMap elemsOf) = vs.map elemsOf := by
  rw [length_flatMap_elemsOf, Nat.mul_div_cancel_left _ hn, pieces_length_flatMap_elemsOf]

/-! ### Text -/

/-- Bytes have ordinals that `textToBits` encodes (45_host_software.md R270). -/
theorem textToBits_bytes (bs : List Byte) : textToBits (bs.map BitVec.toNat) = .ok (bs.flatMap elemsOf) := by
  have hrange : (bs.map BitVec.toNat).all (· < 256) = true := by
    simp only [List.all_map, List.all_eq_true, Function.comp_apply, decide_eq_true_eq]
    exact fun b _ => b.isLt
  rw [textToBits, if_pos hrange]
  simp [List.flatMap_map]

/-- `bitsToText` reads encoded bytes back (45_host_software.md R271). -/
theorem bitsToText_bytes (bs : List Byte) : bitsToText (bs.flatMap elemsOf) = .ok (bs.map BitVec.toNat) := by
  rw [bitsToText, if_pos (by simp), pieces_flatMap_elemsOf (by decide), List.map_map]
  congr 2
  exact funext natOfElems_elemsOf

/-! ### Padding -/

/-- The bits `pad` appends: `n` bytes, each of value `n` (45_host_software.md R272). -/
def padding (n : Nat) : List Bool := (List.replicate n (elemsOf (BitVec.ofNat 8 n))).flatten

@[simp] theorem length_padding (n : Nat) : (padding n).length = 8 * n := by simp [padding, Nat.mul_comm]

theorem padLen_range (bits : List Bool) : 1 ≤ padLen bits ∧ padLen bits ≤ 8 := by
  unfold padLen
  omega

theorem pad_eq {bits : List Bool} (h : bits.length % 8 = 0) : pad bits = .ok (bits ++ padding (padLen bits)) := if_pos h

/-- What `pad` makes is a multiple of 64 bits long (45_host_software.md R272). -/
theorem length_padded_mod {bits : List Bool} (h : bits.length % 8 = 0) :
    (bits ++ padding (padLen bits)).length % 64 = 0 := by
  rw [List.length_append, length_padding, padLen]
  omega

/-- The last byte of the padding is its length in bytes. -/
theorem drop_append_padding (bits : List Bool) {n : Nat} (h : 1 ≤ n) :
    (bits ++ padding n).drop ((bits ++ padding n).length - 8) = elemsOf (BitVec.ofNat 8 n) := by
  obtain ⟨m, rfl⟩ := Nat.exists_eq_add_of_le' h
  rw [padding, List.replicate_succ', List.flatten_concat, ← List.append_assoc]
  refine List.drop_left' ?_
  simp only [List.length_append, List.length_flatten, List.map_replicate, List.sum_replicate, length_elemsOf]
  omega

/-- `unpad` takes a padding of 1 to 8 bytes off any bit string (45_host_software.md R273). -/
theorem unpad_append_padding (bits : List Bool) {n : Nat} (h1 : 1 ≤ n) (h8 : n ≤ 8) :
    unpad (bits ++ padding n) = .ok bits := by
  have hlast : natOfElems ((bits ++ padding n).drop ((bits ++ padding n).length - 8)) = n := by
    rw [drop_append_padding bits h1, natOfElems_elemsOf, BitVec.toNat_ofNat]
    omega
  have hlen : (bits ++ padding n).length = bits.length + 8 * n := by simp
  have hvalid : ¬ (n < 1 ∨ 8 < n ∨ (bits ++ padding n).length < n * 8) := by omega
  simp only [unpad, hlast, if_neg hvalid]
  rw [hlen, Nat.add_sub_cancel, List.take_left]

/-- Settles O55: the padding is 1 to 8 bytes (`padLen_range`), and `unpad` reads its length in its last byte
(`drop_append_padding`). -/
theorem unpadInvertsPad : Obligations.UnpadInvertsPad := by
  intro bits h
  obtain ⟨h1, h8⟩ := padLen_range bits
  refine ⟨_, pad_eq h, length_padded_mod h, ?_, ?_, unpad_append_padding bits h1 h8⟩ <;>
    rw [List.length_append, length_padding] <;> omega

/-! ### Keys in hexadecimal -/

theorem hexValue_hexDigit (v : BitVec 4) : hexValue (hexDigit v) = some v := by
  revert v
  decide

/-- A list of digits reads back as the list of their values. -/
theorem mapM_hexValue_hexDigit (vs : List (BitVec 4)) : (vs.map hexDigit).mapM hexValue = some vs := by
  induction vs with
  | nil => rfl
  | cons v vs ih => simp [hexValue_hexDigit, ih]

/-- Settles O56: a key is the elements of sixteen four-bit vectors; `keyToHex` writes their digits, and `keyFromHex` reads
each digit back (`mapM_hexValue_hexDigit`) and joins them again. -/
theorem hexKeyRoundTrip : Obligations.HexKeyRoundTrip := by
  intro K
  obtain ⟨vs, hvs⟩ := exists_eq_flatMap_elemsOf (n := 4) (bits := elemsOf K) (by simp)
  have hlen : vs.length = 16 := by
    have h := congrArg List.length hvs
    rw [length_elemsOf, length_flatMap_elemsOf] at h
    omega
  have hhex : keyToHex K = vs.map hexDigit := by
    rw [keyToHex, hvs, ← hlen, pieces_length_flatMap_elemsOf, List.map_map]
    simp [Function.comp_def]
  rw [hhex, keyFromHex, if_pos (by simpa using hlen), mapM_hexValue_hexDigit]
  simp only [← hvs, ofElems_elemsOf]

end Sys2Proof.Machine
end

section
/-! PROOF. The hybrid round trip (45_host_software.md R275 to R280). What the host's procedures leave of the core is the
key, its subkeys and the bank (`CipherKept`), so the ECB decryption runs with the subkeys of the encryption, and
ROTOR_RESET takes the bank back to the positions the text was encoded from. -/

namespace Sys2Proof.Machine

/-! ### Blocks through the core -/

/-- `t` has the Feistel engine ready as `s` has, with the same subkeys, and the same rotors. -/
structure CipherKept (s t : State) : Prop where
  keyValid : t.keyValid = s.keyValid
  sk : t.sk = s.sk
  rotors : t.rotors = s.rotors

theorem CipherKept.trans {s t u : State} (hst : CipherKept s t) (htu : CipherKept t u) : CipherKept s u :=
  ⟨htu.keyValid.trans hst.keyValid, htu.sk.trans hst.sk, htu.rotors.trans hst.rotors⟩

/-- With a key scheduled the command succeeds and writes `f DATA SK` to RESULT (41_des_engine.md R171, R172). -/
def ComputesBlock (i : Instr) (f : BitVec 64 → Vector Subkey 16 → BitVec 64) : Prop :=
  ∀ s : State, s.keyValid = true → exec i s = .next (State.succeeded { s with result := f s.data s.sk })

theorem computesBlock_encrypt : ComputesBlock .encryptBlock (encrypt fipsTables) := fun s h => (Ran.encryptBlock s h).exec_eq

theorem computesBlock_decrypt : ComputesBlock .decryptBlock (decrypt fipsTables) := fun s h => (Ran.decryptBlock s h).exec_eq

/-- `setdata` stores both halves of the block (30_encoding.md R98). -/
theorem hostAccesses_setData (b : BitVec 64) (s : State) :
    hostAccesses (setDataEvents b) s = .ok { s with data := b } := by
  have hjoin : joinWords (hiWord (joinWords (hiWord b) (loWord s.data))) (loWord b) = b := by
    rw [hiWord_joinWords, joinWords_words]
  show Except.ok { s with data := joinWords (hiWord (joinWords (hiWord b) (loWord s.data))) (loWord b) } = _
  rw [hjoin]

/-- `rdresult` reads RESULT (30_encoding.md R98). -/
theorem joinWords_busRead_result (s : State) : joinWords (busRead 0x20 s) (busRead 0x24 s) = s.result :=
  joinWords_words s.result

/-- One block through the core (45_host_software.md R275, R276). -/
theorem hostBlock_eq {i : Instr} {f : BitVec 64 → Vector Subkey 16 → BitVec 64} (hi : ComputesBlock i f) {s : State}
    (hkey : s.keyValid = true) (b : BitVec 64) : ∃ t, hostBlock i b s = .ok (f b s.sk, t) ∧ CipherKept s t := by
  have hcmd := hostCommand_of_exec (hi { s with data := b } hkey) rfl
  refine ⟨State.succeeded { s with data := b, result := f b s.sk }, ?_, ⟨rfl, rfl, rfl⟩⟩
  simp only [hostBlock, hostAccesses_setData, hcmd, joinWords_busRead_result, State.succeeded_result]

/-- The blocks of a message, each on its own, with the same subkeys (45_host_software.md R275, R276). -/
theorem hostBlocks_eq {i : Instr} {f : BitVec 64 → Vector Subkey 16 → BitVec 64} (hi : ComputesBlock i f)
    (bs : List (BitVec 64)) {s : State} (hkey : s.keyValid = true) :
    ∃ t, hostBlocks i (bs.map elemsOf) s = .ok ((bs.map (f · s.sk)).flatMap elemsOf, t) ∧ CipherKept s t := by
  induction bs generalizing s with
  | nil => exact ⟨s, rfl, ⟨rfl, rfl, rfl⟩⟩
  | cons b bs ih =>
    obtain ⟨t, ht, hst⟩ := hostBlock_eq hi hkey b
    obtain ⟨u, hu, htu⟩ := ih (hst.keyValid.trans hkey)
    rw [hst.sk] at hu
    refine ⟨u, ?_, hst.trans htu⟩
    simp only [List.map_cons, hostBlocks, ofElems_elemsOf, ht, hu, List.flatMap_cons]

/-! ### The ECB procedures -/

/-- `ecbEncrypt` of bytes whose padded bits are the blocks `bs` (45_host_software.md R275). -/
theorem ecbEncrypt_eq {text : List Byte} {bs : List (BitVec 64)} (hpad : pad (text.flatMap elemsOf) = .ok (bs.flatMap elemsOf))
    {s : State} (hkey : s.keyValid = true) :
    ∃ t, ecbEncrypt (text.map BitVec.toNat) s = .ok ((bs.map (encrypt fipsTables · s.sk)).flatMap elemsOf, t) ∧
      CipherKept s t := by
  obtain ⟨t, ht, hst⟩ := hostBlocks_eq computesBlock_encrypt bs hkey
  refine ⟨t, ?_, hst⟩
  simp only [ecbEncrypt, textToBits_bytes, hpad]
  rw [if_pos (by simp), pieces_flatMap_elemsOf (by decide), ht]

/-- `ecbDecrypt` of blocks that decrypt to a padded text (45_host_software.md R276). -/
theorem ecbDecrypt_eq {text : List Byte} {bs : List (BitVec 64)} {s : State} (hkey : s.keyValid = true)
    (hunpad : unpad ((bs.map (decrypt fipsTables · s.sk)).flatMap elemsOf) = .ok (text.flatMap elemsOf)) :
    ∃ t, ecbDecrypt (bs.flatMap elemsOf) s = .ok (text.map BitVec.toNat, t) ∧ CipherKept s t := by
  obtain ⟨t, ht, hst⟩ := hostBlocks_eq computesBlock_decrypt bs hkey
  refine ⟨t, ?_, hst⟩
  rw [ecbDecrypt, if_pos (by simp), pieces_flatMap_elemsOf (by decide)]
  simp only [ht, hunpad, bitsToText_bytes]

/-- `ecbDecrypt` inverts `ecbEncrypt` on bytes while a key is scheduled: the padded text is whole blocks, each block is
decrypted with the subkeys that encrypted it, and `unpad` inverts `pad`. -/
theorem ecbRoundTrip (text : List Byte) {s : State} (hkey : s.keyValid = true) :
    ∃ bits t u, ecbEncrypt (text.map BitVec.toNat) s = .ok (bits, t) ∧
      ecbDecrypt bits t = .ok (text.map BitVec.toNat, u) ∧ CipherKept s u := by
  obtain ⟨padded, hpad, hlen, -, -, hunpad⟩ := unpadInvertsPad (text.flatMap elemsOf) (by simp)
  obtain ⟨bs, rfl⟩ := exists_eq_flatMap_elemsOf hlen
  obtain ⟨t, ht, hst⟩ := ecbEncrypt_eq hpad hkey
  have hblocks : (bs.map (encrypt fipsTables · s.sk)).map (decrypt fipsTables · t.sk) = bs := by
    rw [hst.sk, List.map_map]
    exact (List.map_congr_left fun b _ => (decryptInvertsEncrypt fipsTables tablesWf_fipsTables b s.sk).1).trans
      (List.map_id' bs)
  obtain ⟨u, hu, htu⟩ := ecbDecrypt_eq (hst.keyValid.trans hkey) (by rw [hblocks, hunpad])
  exact ⟨_, t, u, ht, hu, hst.trans htu⟩

/-! ### ROTOR_RESET and `encode` -/

/-- A command that succeeds for the host has run on the core. -/
theorem exec_of_hostCommand {i : Instr} {s t : State} (h : hostCommand i s = .ok t) : exec i s = .next t := by
  obtain ⟨u, hu, -⟩ := exec_ran i s
  have hacc : hostAccesses [cmdEvent i] s = .ok u := by simp only [hostAccesses, serve_cmdEvent, hu]
  simp only [hostCommand, hacc] at h
  split at h
  · cases h
    exact hu
  · cases h

/-- The host's `encode` leaves KEY_VALID as it was: no rotor command writes it (41_des_engine.md R173). -/
theorem hostEncode_keyValid {text out : List Byte} {s t : State} (h : hostEncode text s = .ok (out, t)) :
    t.keyValid = s.keyValid := by
  induction text generalizing s out with
  | nil =>
    cases h
    rfl
  | cons c cs ih =>
    simp only [hostEncode] at h
    split at h
    · cases h
    · next u hu =>
      obtain ⟨⟨-, hkey, -⟩, -⟩ := (ran_of_exec (exec_of_hostCommand hu)).withFeistelSide rfl
      split at h
      · cases h
      · next hrest =>
        cases h
        exact (ih hrest).trans hkey

/-- ROTOR_RESET and then `encode` of a text without REJECT bytes: the text goes through the initial bank, and that bank is
what the next ROTOR_RESET restores (42_rotor_engine.md R213, R223). -/
theorem resetThenEncode {s : State} {rs : Vector Rotor 3} (hinit : atInit s.rotors = rs)
    (hcfg : ∀ r : RotorNo, rs[r].cfg = true) {text : List Byte} (htext : ∀ c ∈ text, isRejectByte c = false) :
    ∃ t u, hostCommand .rotorReset s = .ok t ∧ hostEncode text t = .ok (encodedText text rs, u) ∧
      u.keyValid = s.keyValid ∧ atInit u.rotors = rs := by
  subst hinit
  obtain ⟨u, hu, hbank⟩ := hostEncode_eq text (State.succeeded { s with rotors := atInit s.rotors }) hcfg htext
  refine ⟨_, u, hostCommand_of_exec (Ran.rotorReset s).exec_eq rfl, hu, ?_, ?_⟩
  · exact (hostEncode_keyValid hu).trans (State.succeeded_keyValid _)
  · rw [hbank, atInit_foldl_bankAfter, State.succeeded_rotors, atInit_atInit]

theorem BankReady.atInit {rs : Vector Rotor 3} (h : BankReady rs) : BankReady (atInit rs) := fun r => by
  rw [atInit_get]
  exact h r

/-- Settles O57: the rotor output survives the ECB procedures (`ecbRoundTrip`), which keep the rotors; so the second
ROTOR_RESET restores the bank of the first (`resetThenEncode`), where the two encodings cancel
(`encodedText_encodedText`). -/
theorem hybridRoundTrip : Obligations.HybridRoundTrip := by
  intro s text hinv hkey hcfg htext
  have hready : BankReady (atInit s.rotors) := BankReady.atInit fun r => ⟨hinv.bankOk r, hcfg r⟩
  have hreadyCfg := fun r => (hready r).2
  obtain ⟨s₁, s₂, hreset, hencode, hkeyValid, hinit⟩ := resetThenEncode rfl hreadyCfg htext
  obtain ⟨bits, t, u, hencrypt, hdecrypt, hkept⟩ := ecbRoundTrip (encodedText text (atInit s.rotors)) (hkeyValid.trans hkey)
  obtain ⟨u₁, v, hreset', hencode', -, -⟩ :=
    resetThenEncode ((congrArg atInit hkept.rotors).trans hinit) hreadyCfg (isRejectByte_encodedText htext _)
  rw [encodedText_encodedText hready] at hencode'
  refine ⟨bits, t, v, ?_, ?_⟩
  · simp only [hybridEncrypt, hreset, hencode, hencrypt]
  · have hbytes (bs : List Byte) : (bs.map BitVec.toNat).map (BitVec.ofNat 8) = bs := by simp [Function.comp_def]
    simp only [hybridDecrypt, hdecrypt, hreset', hbytes, hencode']

end Sys2Proof.Machine
end

section
/-! PROOF. Failed commands and the order of the checks (60_exceptions.md R300, R302). For each command, `firstFailedCheck`
of its word is stated in the operand forms that the command itself tests; `Ran` then gives the same code. -/

namespace Sys2Proof.Machine

/-- Settles O8: a command that ends with an error code has not succeeded, so it has failed (`issueCommand_failed_or_ok`),
and a failed state differs in ERR and STICKY alone. -/
theorem failedCommandChangesOnlyStatus : Obligations.FailedCommandChangesOnlyStatus := by
  intro w s t h herr
  obtain ⟨e, rfl⟩ | ⟨hok, -⟩ := issueCommand_failed_or_ok h
  · rfl
  · exact absurd hok herr

/-! ### The first failed check of each command's word -/

/-- A command that takes no arguments and needs no key has nothing to fail (41_des_engine.md R169, R170; 42_rotor_engine.md
R223; 43_control.md R250). -/
theorem firstFailedCheck_unconditional {i : Instr}
    (hi : i = .nop ∨ i = .keySchedule ∨ i = .keyGenerate ∨ i = .rotorReset) (s : State) :
    firstFailedCheck (encode i) s = okCode := by
  rcases hi with rfl | rfl | rfl | rfl <;> rfl

/-- The block commands check KEY_VALID (41_des_engine.md R171, R172). -/
theorem firstFailedCheck_block {i : Instr} (hi : i = .encryptBlock ∨ i = .decryptBlock) (s : State) :
    firstFailedCheck (encode i) s = if s.keyValid = false then ErrCode.noKey.code else okCode := by
  rcases hi with rfl | rfl <;>
    simp [firstFailedCheck, encode, assignedOPC, reservedNonZero, argumentOutOfRange, ErrCode.code, okCode]

/-- ROTOR_STAGE_WIRING checks the index, then the letter (42_rotor_engine.md R220). -/
theorem firstFailedCheck_stageWiring (a b : Byte) (s : State) :
    firstFailedCheck (encode (.rotorStageWiring a b)) s =
      if indexArg a = none then ErrCode.badArgument.code
      else if wiringArg b = none then ErrCode.badWiring.code else okCode := by
  simp [firstFailedCheck, encode, assignedOPC, reservedNonZero, argumentOutOfRange, ErrCode.code, okCode,
    indexArg_eq_none, wiringArg_eq_none]

/-- ROTOR_CONFIGURE checks its three arguments, then the staged wiring (42_rotor_engine.md R221). -/
theorem firstFailedCheck_configure (a b c : Byte) (s : State) :
    firstFailedCheck (encode (.rotorConfigure a b c)) s =
      if rotorArg a = none ∨ indexArg b = none ∨ indexArg c = none then ErrCode.badArgument.code
      else if isBijection s.wstage = false then ErrCode.badWiring.code else okCode := by
  simp [firstFailedCheck, encode, assignedOPC, reservedNonZero, argumentOutOfRange, ErrCode.code, okCode,
    rotorArg_eq_none, indexArg_eq_none, isBijection]

/-- ROTOR_SET_POSITIONS checks its three arguments (42_rotor_engine.md R222). -/
theorem firstFailedCheck_setPositions (a b c : Byte) (s : State) :
    firstFailedCheck (encode (.rotorSetPositions a b c)) s =
      if indexArg a = none ∨ indexArg b = none ∨ indexArg c = none then ErrCode.badArgument.code else okCode := by
  simp [firstFailedCheck, encode, assignedOPC, reservedNonZero, argumentOutOfRange, ErrCode.code, okCode,
    indexArg_eq_none]

/-- ROTOR_ENCODE_CHAR checks the rotors, then the class of its byte (42_rotor_engine.md R224). -/
theorem firstFailedCheck_encodeChar (c : Byte) (s : State) :
    firstFailedCheck (encode (.rotorEncodeChar c)) s =
      if allConfigured s = false then ErrCode.rotorNotConfigured.code
      else if charClass c = .reject then ErrCode.badChar.code else okCode := by
  have hall : (s.rotors[0].cfg && s.rotors[1].cfg && s.rotors[2].cfg) = allConfigured s := rfl
  simp [firstFailedCheck, encode, assignedOPC, reservedNonZero, argumentOutOfRange, ErrCode.code, okCode,
    charClass_eq_reject, hall]

/-! ### Every command word -/

/-- A command leaves in ERR the code of the first check that its word fails (60_exceptions.md R302). -/
theorem Ran.err_eq {i : Instr} {s t : State} (hr : Ran i s t) : t.err = firstFailedCheck (encode i) s := by
  cases hr with
  | nop | keySchedule | keyGenerate | rotorReset => simp [firstFailedCheck_unconditional]
  | encryptBlock _ h | decryptBlock _ h => simp [firstFailedCheck_block, h]
  | noKey _ _ hi h => simp [firstFailedCheck_block hi, h]
  | stageBadIndex _ _ _ ha => simp [firstFailedCheck_stageWiring, ha]
  | stage _ _ _ _ _ ha hb | stageBadLetter _ _ _ _ ha hb => simp [firstFailedCheck_stageWiring, ha, hb]
  | configureBadArgument _ _ _ _ h => simp [firstFailedCheck_configure, h]
  | configure _ _ _ _ _ _ _ ha hb hc hw | configureBadWiring _ _ _ _ _ _ _ ha hb hc hw =>
    simp [firstFailedCheck_configure, ha, hb, hc, hw]
  | setPositionsBad _ _ _ _ h => simp [firstFailedCheck_setPositions, h]
  | setPositions _ _ _ _ _ _ _ ha hb hc => simp [firstFailedCheck_setPositions, ha, hb, hc]
  | encodeUnconfigured _ _ h => simp [firstFailedCheck_encodeChar, h]
  | encodeReject _ _ h hc | encodeOther _ _ h hc | encodeLetter _ _ _ h hc => simp [firstFailedCheck_encodeChar, h, hc]

/-- Settles O9: a word that decodes to a command is that command's word, so `Ran.err_eq` gives its ERR; the other words
fail one of the two checks of the decoder, OPC before the reserved fields. -/
theorem firstFailedCheckDecidesErr : Obligations.FirstFailedCheckDecidesErr := by
  intro w s
  obtain ⟨t, ht⟩ := issueCommand_completes w s
  refine ⟨t, ht, ?_⟩
  obtain ⟨i, hd, hr⟩ | ⟨hd, rfl⟩ | ⟨hd, rfl⟩ := issueCommand_cases ht
  · rw [hr.err_eq, encode_of_decodeWord hd]
  · have hassigned : assignedOPC (fieldOPC w).toNat = true := by
      rw [← Bool.not_eq_false, ← decodeWord_eq_illegalOpcode, hd]
      simp
    simp [firstFailedCheck, hassigned, decodeWord_eq_reservedField.mp hd, ErrCode.code]
  · simp [firstFailedCheck, decodeWord_eq_illegalOpcode.mp hd, ErrCode.code]

end Sys2Proof.Machine
end

section
/-! PROOF. Reset, and the hazard of a cached key schedule (70_reset_and_hazards.md R340, R351). -/

namespace Sys2Proof.Machine

/-- Reset takes the three rotors to the unit's reset values (10_state.md R31 to R34). -/
theorem reset_rotors_get (r : RotorNo) : State.reset.rotors[r] = Rotor.reset :=
  Vector.getElem_replicate r.isLt

/-- Reset clears every entry of the staging buffer (10_state.md R35). -/
theorem reset_wstage_get (k : Letter) : State.reset.wstage[k] = 0 :=
  Vector.getElem_replicate k.isLt

/-- STATUS reads as 0 after reset, whatever the state before (70_reset_and_hazards.md R340). -/
theorem busRead_status_applyReset (s : State) : busRead 0x04 (applyReset s) = 0x00000000 := by
  show statusWord State.reset = 0x00000000
  decide

/-- Settles O17: the step serves the reset (`applyReset`), and the values are those of `State.reset`, element by
element. -/
theorem resetValues : Obligations.ResetValues := by
  intro s rest
  refine ⟨_, State.reset.sk, State.reset.rotors, State.reset.wstage, step_onBus s .reset rest, rfl, fun r => ?_,
    reset_wstage_get, busRead_status_applyReset _⟩
  rw [reset_rotors_get]
  exact ⟨rfl, rfl, rfl, rfl⟩

/-! ### Stale subkeys -/

/-- The first of the host's accesses completes, and the others go on from there (20_memory.md R70). -/
theorem hostAccesses_cons {e : HostEvent} {es : List HostEvent} {s t : State} :
    hostAccesses (e :: es) s = .ok t ↔ ∃ u, serve e s = .next u ∧ hostAccesses es u = .ok t := by
  rw [hostAccesses]
  split
  · next u hu => simp [hu]
  · next r hr => simp [hr]

/-- What each of the host's accesses keeps, all of them keep. -/
theorem hostAccesses_keeps {P : State → Prop} {es : List HostEvent}
    (hkeep : ∀ e ∈ es, ∀ s t, serve e s = .next t → P s → P t) {s t : State} (h : hostAccesses es s = .ok t)
    (hs : P s) : P t := by
  induction es generalizing s with
  | nil =>
    cases h
    exact hs
  | cons e es ih =>
    rw [List.forall_mem_cons] at hkeep
    obtain ⟨he, hes⟩ := hkeep
    obtain ⟨u, hu, hrest⟩ := hostAccesses_cons.mp h
    exact ih hes hrest (he s u hu hs)

/-- Only the two words that schedule a key take KEY_VALID from 0 to 1 (10_state.md R24). -/
theorem serve_keepsKeyInvalid {e : HostEvent} (he : e ≠ .write 0x08 0x00000001 ∧ e ≠ .write 0x08 0x00000002)
    {s t : State} (h : serve e s = .next t) (hs : s.keyValid = false) : t.keyValid = false := by
  obtain hkept | ⟨hword, -⟩ | ⟨-, hcleared⟩ := serve_keyValid h
  · exact hkept.trans hs
  · exact absurd hword (not_or.mpr he)
  · exact hcleared

/-- A write to either half of KEY clears KEY_VALID (10_state.md R24, 43_control.md R252). -/
theorem serve_keyWrite_keyValid {off : Nat} (hoff : off = 0x10 ∨ off = 0x14) {v : Word} {s t : State}
    (h : serve (.write off v) s = .next t) : t.keyValid = false := by
  obtain rfl | rfl := hoff <;> cases h <;> rfl

/-- Settles O51: the KEY write clears KEY_VALID, the accesses after it keep it clear (`hostAccesses_keeps`), and so the
block command ends as `Ran.noKey`. -/
theorem staleSubkeysAreNeverUsed : Obligations.StaleSubkeysAreNeverUsed := by
  intro s t off v between i hoff hi hbetween h
  obtain ⟨u, hu, hrest⟩ := hostAccesses_cons.mp h
  have hcleared : u.keyValid = false := serve_keyWrite_keyValid hoff hu
  have ht : t.keyValid = false :=
    hostAccesses_keeps (P := fun x => x.keyValid = false)
      (fun e he _ _ hserve hx => serve_keepsKeyInvalid (hbetween e he) hserve hx) hrest hcleared
  exact (Ran.noKey i t hi ht).exec_eq

end Sys2Proof.Machine
end

section
/-! PROOF. Decoding and encoding are inverse to each other (30_encoding.md R91, R93, R94). -/

namespace Sys2Proof

/-- Settles O2: the word of a command has the fields the opcode map looks at (`decodeWord_encode`), and a word that decodes
to a command has no other field that is not zero (`encode_of_decodeWord`). -/
theorem decodeAndEncodeAgree : Obligations.DecodeAndEncodeAgree :=
  ⟨decodeWord_encode, fun _ _ => encode_of_decodeWord⟩

end Sys2Proof
end

section
/-! PROOF. The invariant at reset (10_state.md R24, R29, R30, R39, R40). -/

namespace Sys2Proof.Machine

/-- Settles O46: the state after reset is the reset input applied to itself, and the reset input makes the invariant hold
in any state (`coreInv_applyReset`). -/
theorem resetKeepsInvariant : Obligations.ResetKeepsInvariant := coreInv_applyReset State.reset

end Sys2Proof.Machine
end

section
/-! PROOF. Who may change what (10_state.md R23 to R36, R39): `ChangedBy e s t` says of each element that it is kept from
`s` to `t` unless `e` is one of its writers, and every host event but reset is shown to change the state so. -/

namespace Sys2Proof.Machine

/-- From `s` to `t`, the event `e` has changed only elements whose rule names it as a writer. -/
structure ChangedBy (e : HostEvent) (s t : State) : Prop where
  /-- KEY: a write to one of its halves, or KEY_GENERATE (R23) -/
  key : t.key = s.key ∨ (∃ v, e = .write 0x10 v ∨ e = .write 0x14 v) ∨ e = .write 0x08 0x00000002
  /-- SK: KEY_SCHEDULE or KEY_GENERATE (R25) -/
  sk : t.sk = s.sk ∨ e = .write 0x08 0x00000001 ∨ e = .write 0x08 0x00000002
  /-- DATA: a write to one of its halves (R26) -/
  data : t.data = s.data ∨ ∃ v, e = .write 0x18 v ∨ e = .write 0x1C v
  /-- RESULT: ENCRYPT_BLOCK or DECRYPT_BLOCK (R27) -/
  result : t.result = s.result ∨ e = .write 0x08 0x00000003 ∨ e = .write 0x08 0x00000004
  /-- WSTAGE: ROTOR_STAGE_WIRING (R35) -/
  wstage : t.wstage = s.wstage ∨ ∃ w, e = .write 0x08 w ∧ fieldOPC w = 0x10
  /-- CHAR_OUT: ROTOR_ENCODE_CHAR (R36) -/
  charOut : t.charOut = s.charOut ∨ ∃ w, e = .write 0x08 w ∧ fieldOPC w = 0x14
  /-- a rotor but for its position: ROTOR_CONFIGURE of that rotor, which leaves it configured (R29 to R31, R33, R34) -/
  unit : ∀ r : RotorNo, t.rotors[r] = s.rotors[r].at t.rotors[r].pos ∨
    ∃ w, e = .write 0x08 w ∧ fieldOPC w = 0x11 ∧ (fieldA w).toNat = r.val ∧ t.rotors[r].cfg = true
  /-- POS: one of the rotor commands that move rotors (R32) -/
  pos : ∀ r : RotorNo, t.rotors[r].pos = s.rotors[r].pos ∨
    ∃ w, e = .write 0x08 w ∧ 0x11 ≤ (fieldOPC w).toNat ∧ (fieldOPC w).toNat ≤ 0x14
  /-- ERR and STICKY: a command (R39, R40) -/
  status : (t.err = s.err ∧ t.sticky = s.sticky) ∨ ∃ w, e = .write 0x08 w

namespace ChangedBy

/-- An event that changes nothing needs no writer. -/
theorem refl (e : HostEvent) (s : State) : ChangedBy e s s :=
  ⟨.inl rfl, .inl rfl, .inl rfl, .inl rfl, .inl rfl, .inl rfl, fun _ => .inl rfl, fun _ => .inl rfl, .inl ⟨rfl, rfl⟩⟩

variable {w : Word} {s t : State}

theorem succeeded (h : ChangedBy (.write 0x08 w) s t) : ChangedBy (.write 0x08 w) s t.succeeded :=
  { h with status := .inr ⟨w, rfl⟩ }

theorem failed (w : Word) (s : State) (c : ErrCode) : ChangedBy (.write 0x08 w) s (s.failed c) :=
  { refl _ s with status := .inr ⟨w, rfl⟩ }

/-- A rotor command may move rotors without touching anything else of them (R32). -/
theorem moved {rs : Vector Rotor 3} {opc : Byte} (hopc : fieldOPC w = opc)
    (hrange : 0x11 ≤ opc.toNat ∧ opc.toNat ≤ 0x14) (hmove : ∀ r : RotorNo, rs[r] = s.rotors[r].at rs[r].pos) :
    ChangedBy (.write 0x08 w) s { s with rotors := rs } :=
  { refl _ s with
    unit := fun r => .inl (hmove r)
    pos := fun _ => .inr ⟨w, rfl, hopc ▸ hrange⟩ }

/-- A word of ROTOR_CONFIGURE may rebuild the rotor its field A names, into a configured one (R29 to R34). -/
theorem rebuilt {r : RotorNo} {R : Rotor} (hopc : fieldOPC w = 0x11) (ha : (fieldA w).toNat = r.val)
    (hcfg : R.cfg = true) : ChangedBy (.write 0x08 w) s { s with rotors := s.rotors.set r R } :=
  { refl _ s with
    unit := fun q => by
      rw [set_rotor_get]
      split
      · next hq => exact .inr ⟨w, rfl, hopc, hq ▸ ha, hcfg⟩
      · exact .inl rfl
    pos := fun _ => .inr ⟨w, rfl, hopc ▸ by decide⟩ }

/-- No event leaves a rotor unconfigured that was configured (R34). -/
theorem cfg {e : HostEvent} (h : ChangedBy e s t) (r : RotorNo) (hs : s.rotors[r].cfg = true) :
    t.rotors[r].cfg = true := by
  obtain hkept | ⟨-, -, -, -, hcfg⟩ := h.unit r
  · rw [hkept, Rotor.at_cfg, hs]
  · exact hcfg

end ChangedBy

/-- A command changes only what its own word may change. -/
theorem Ran.changedBy {i : Instr} {s t : State} (hr : Ran i s t) : ChangedBy (.write 0x08 (encode i)) s t := by
  have hnone := ChangedBy.refl (.write 0x08 (encode i)) s
  cases hr with
  | nop => exact hnone.succeeded
  | keySchedule => exact ChangedBy.succeeded { hnone with sk := .inr (.inl rfl) }
  | keyGenerate => exact ChangedBy.succeeded { hnone with key := .inr (.inr rfl), sk := .inr (.inr rfl) }
  | encryptBlock => exact ChangedBy.succeeded { hnone with result := .inr (.inl rfl) }
  | decryptBlock => exact ChangedBy.succeeded { hnone with result := .inr (.inr rfl) }
  | stage => exact ChangedBy.succeeded { hnone with wstage := .inr ⟨_, rfl, fieldOPC_commandWord ..⟩ }
  | configure _ _ _ _ _ _ _ ha =>
    refine (ChangedBy.rebuilt (fieldOPC_commandWord ..) ?_ rfl).succeeded
    rw [fieldA_commandWord]
    exact rotorArg_eq_some.mp ha
  | setPositions =>
    refine (ChangedBy.moved (fieldOPC_commandWord ..) (by decide) fun r => ?_).succeeded
    rw [atPositions_get, Rotor.at_pos]
  | rotorReset =>
    refine (ChangedBy.moved (fieldOPC_commandWord ..) (by decide) fun r => ?_).succeeded
    rw [atInit_get, Rotor.at_pos]
  | encodeOther => exact ChangedBy.succeeded { hnone with charOut := .inr ⟨_, rfl, fieldOPC_commandWord ..⟩ }
  | encodeLetter _ c =>
    have hmoved : ChangedBy (.write 0x08 (encode (.rotorEncodeChar c))) s { s with rotors := stepAll s.rotors } :=
      ChangedBy.moved (fieldOPC_commandWord ..) (by decide) (stepAll_at s.rotors)
    exact ChangedBy.succeeded { hmoved with charOut := .inr ⟨_, rfl, fieldOPC_commandWord ..⟩ }
  | noKey | stageBadIndex | stageBadLetter | configureBadArgument | configureBadWiring | setPositionsBad
  | encodeUnconfigured | encodeReject => exact ChangedBy.failed _ _ _

/-- A word on CMD changes only what it may change, whatever it decodes to. -/
theorem issueCommand_changedBy {w : Word} {s t : State} (h : issueCommand w s = .next t) :
    ChangedBy (.write 0x08 w) s t := by
  obtain ⟨i, hd, hr⟩ | ⟨-, rfl⟩ | ⟨-, rfl⟩ := issueCommand_cases h
  · exact encode_of_decodeWord hd ▸ hr.changedBy
  · exact ChangedBy.failed w s _
  · exact ChangedBy.failed w s _

/-- A store changes KEY or DATA, each at its own two offsets, or nothing (43_control.md R252). -/
theorem writeReg_changedBy (off : Nat) (v : Word) (s : State) :
    ChangedBy (.write off v) s (writeReg (windowReg off) v s) := by
  have hnone := ChangedBy.refl (.write off v) s
  cases hreg : windowReg off with
  | keyHi => exact { hnone with key := .inr (.inl ⟨v, .inl (windowReg_eq_keyHi.mp hreg ▸ rfl)⟩) }
  | keyLo => exact { hnone with key := .inr (.inl ⟨v, .inr (windowReg_eq_keyLo.mp hreg ▸ rfl)⟩) }
  | dataHi => exact { hnone with data := .inr ⟨v, .inl (windowReg_eq_dataHi.mp hreg ▸ rfl)⟩ }
  | dataLo => exact { hnone with data := .inr ⟨v, .inr (windowReg_eq_dataLo.mp hreg ▸ rfl)⟩ }
  | id | status | cmd | resultHi | resultLo | charOut | rotorPos | rotorInit | rotorNotch | reserved => exact hnone

/-- Every host event but reset changes only what it may change. -/
theorem serve_changedBy {e : HostEvent} {s t : State} (h : serve e s = .next t) (hreset : e ≠ .reset) :
    ChangedBy e s t := by
  obtain ⟨off, -, -, rfl⟩ | ⟨off, w, rfl, -, hcmd, hi⟩ | ⟨off, w, rfl, -, -, rfl⟩ | ⟨he, -⟩ := serve_cases h
  · exact { ChangedBy.refl e s with }
  · obtain rfl := windowReg_eq_cmd.mp hcmd
    exact issueCommand_changedBy hi
  · exact writeReg_changedBy off w s
  · exact absurd he hreset

/-- Settles O52: the step serves the event, which changes only elements it is a writer of (`serve_changedBy`). -/
theorem eachElementHasItsWriters : Obligations.EachElementHasItsWriters := by
  intro s t e rest h hreset
  have hc := serve_changedBy h hreset
  exact ⟨hc.key.resolve_left, hc.sk.resolve_left, hc.data.resolve_left, hc.result.resolve_left, hc.wstage.resolve_left,
    hc.charOut.resolve_left, fun r => (hc.unit r).resolve_left, fun r => (hc.pos r).resolve_left, hc.cfg,
    fun hne => hc.status.resolve_left (not_and_or.mpr hne)⟩

end Sys2Proof.Machine
end
